-- ==== Sys2Proof/Word.lean ====
section
/-! DEFINITION. The value types of the block: bytes, host words, 16-byte blocks, lanes and host addresses (spec/00_scope.md R9, R10, R14). -/

namespace Sys2Proof

/-- A byte, an unsigned integer 0..255 (R9). -/
abbrev Byte := BitVec 8

/-- A host word, an unsigned 32-bit integer (R9). -/
abbrev Word := BitVec 32

/-- A 16-byte vector `x[0..15]`, the unit of the cipher and of the padding codec (R11, R16). -/
abbrev Block := Vector Byte 16

/-- A byte position of a 16-byte vector (R17, "Lane"). -/
abbrev Lane := Fin 16

/-- A host byte address relative to the base of the block's window: HOST_ADDR_BITS = 19 (R8, R70). -/
abbrev HostAddr := BitVec 19

/-- A permutation `[P(0), …, P(15)]` of the lanes, written as a list (R14). -/
abbrev Wiring := Vector Lane 16

/-- The contents of the table memory as a whole: the byte at each offset. A view of the state, computed and never stored. -/
abbrev Image := Nat → Byte

end Sys2Proof
end

