-- ==== Sys2Proof/Config.lean ====
section
/-! DEFINITION. What one implementation of the block fixes (spec/00_scope.md R8) and the free values the spec leaves open (spec/93_implementation_defined.md U1, U11). -/

namespace Sys2Proof.Config

/-- TMEM_BYTES (R8): bytes of table memory. -/
def tmemBytes : Nat := 0x40000

/-- TS_BYTES (R8): bytes of the table-set artifact. -/
def tsBytes : Nat := 0x2E020

/-- NROUNDS (R8): rounds of the network. -/
def nRounds : Nat := 10

/-- The constant that ID reads as (R31). -/
def idWord : Word := 0x57420100#32

/-- TMEM_INIT (R8, R57, R262, U1): the byte that offset `a` of TMEM holds after the reset numbered `era`, until the host writes it.
It has no body, so nothing can be proved of it: an arbitrary draw for each byte and each reset (log entry 1). -/
opaque tmemInit (era a : Nat) : Byte

/-- A value for the hidden round state σ once no EVAL is in flight (R55, U11), an arbitrary draw (log entry 2). -/
opaque freeSigma (n : Nat) : Block

/-- A value for the hidden round counter once no EVAL is in flight (R55, U11), an arbitrary draw (log entry 2). -/
opaque freeRound (n : Nat) : Nat

end Sys2Proof.Config
end

