-- ==== Sys2Proof/Syntax.lean ====
section
/-! DEFINITION. The commands of the block, one constructor per row of spec/opcode_table.json (spec/30_encoding.md R112). -/

namespace Sys2Proof

/-- A command. The 5-bit LEN field of PAD is its only operand (R111, R116); every other operand is implicit (R117). -/
inductive Instr where
  /-- EVAL (R153): evaluate the table network on DIN into DOUT. -/
  | eval
  /-- PAD (R192): PKCS#7-pad the LEN-byte chunk in DIN into DOUT. -/
  | pad (len : BitVec 5)
  /-- UNPAD (R196): validate and strip the padding of DIN into DOUT. -/
  | unpad
  /-- CHECK (R158): validate the table-set header in TMEM. -/
  | check
deriving DecidableEq, Repr

end Sys2Proof
end

