-- ==== Sys2Proof/WellFormed.lean ====
section
/-! DEFINITION. Which terms of `Instr` are commands that the encoding admits (spec/30_encoding.md R116, R118). -/

namespace Sys2Proof

/-- LEN is legal: 0..15 for PAD (R116); the other commands have no operand. -/
abbrev Instr.WellFormed (i : Instr) : Prop :=
  match i with
  | .eval => True
  | .pad len => len.toNat ≤ 15
  | .unpad => True
  | .check => True

/-- `Instr.WellFormed` as a check that runs. -/
def Instr.wellFormed (i : Instr) : Bool :=
  match i with
  | .eval => true
  | .pad len => decide (len.toNat ≤ 15)
  | .unpad => true
  | .check => true

end Sys2Proof
end

