-- ==== Sys2Proof/Decode.lean ====
section
/-! DEFINITION. The command word: its fields, the decoder, total on every word and rejecting by name, and the encoder
(spec/30_encoding.md R110..R119). -/

namespace Sys2Proof

/-- Field OP, bits 3:0 (R111). -/
def opField (v : Word) : BitVec 4 := v.extractLsb' 0 4

/-- Field LEN, bits 8:4 (R111). -/
def lenField (v : Word) : BitVec 5 := v.extractLsb' 4 5

/-- Field RSVD, bits 31:9 (R111). -/
def rsvdField (v : Word) : BitVec 23 := v.extractLsb' 9 23

/-- Why a word is illegal: the classes (a) to (d) of R118. -/
inductive DecodeReject where
  /-- (a) a nonzero bit in 31:9. -/
  | rsvdNonzero
  /-- (b) OP = 0x0 or OP in 0x5..0xF. -/
  | reservedOp
  /-- (c) EVAL, UNPAD or CHECK with LEN other than 0. -/
  | lenNonzero
  /-- (d) PAD with LEN in 16..31. -/
  | padLenOutOfRange
deriving DecidableEq, Repr

/-- The decode function of R114. Every word gets exactly one verdict; the name of a rejection is the model's (log entry 14). -/
def decode (v : Word) : Except DecodeReject Instr :=
  if rsvdField v ≠ 0#23 then .error .rsvdNonzero
  else if opField v = 1#4 then
    if lenField v = 0#5 then .ok .eval else .error .lenNonzero
  else if opField v = 2#4 then
    if (lenField v).toNat ≤ 15 then .ok (.pad (lenField v)) else .error .padLenOutOfRange
  else if opField v = 3#4 then
    if lenField v = 0#5 then .ok .unpad else .error .lenNonzero
  else if opField v = 4#4 then
    if lenField v = 0#5 then .ok .check else .error .lenNonzero
  else .error .reservedOp

/-- The value of field OP for each command (R112). -/
def opcode (i : Instr) : BitVec 4 :=
  match i with
  | .eval => 1#4
  | .pad _ => 2#4
  | .unpad => 3#4
  | .check => 4#4

/-- The value of field LEN for each command (R111). -/
def lenOperand (i : Instr) : BitVec 5 :=
  match i with
  | .eval => 0#5
  | .pad len => len
  | .unpad => 0#5
  | .check => 0#5

/-- The command word of an instruction: RSVD = 0, then LEN, then OP (R111, R112). -/
def encode (i : Instr) : Word := (0#23 ++ lenOperand i) ++ opcode i

/-- The host's question about a row of spec/opcode_table.json: the instruction that the command word with bits `w` decodes to.
A command is one 32-bit word and no bytes (R110), so the word's own numbering is the table's; bits at `nbits` and above are 0 (log entry 15). -/
def decodeTableWord (nbits w : Nat) : Option Instr :=
  if w % 2 ^ nbits < 2 ^ 32 then (decode (BitVec.ofNat 32 (w % 2 ^ nbits))).toOption else none

end Sys2Proof
end

