-- ==== Sys2Proof/Machine/State.lean ====
section
/-! DEFINITION. The state of the machine as plain data (spec/10_state.md R30), the reasons a step can stop, and the state after reset (R57). -/

namespace Sys2Proof.Machine

/-- The kinds of command error the block raises (spec/60_exceptions.md R221). They are outcomes of a command, recorded in STATUS; the machine goes on. -/
inductive CmdError where
  /-- Code 1: EVAL or CHECK found that HdrOK(TMEM) is false. -/
  | malformedTableSet
  /-- Code 2: UNPAD found that PadOK(DIN) is false. -/
  | invalidPadding
  /-- Code 3: the accepted word decodes as Illegal. -/
  | illegalCommand
deriving DecidableEq, Repr

/-- The fields of STATUS (R38). The reserved bits hold nothing and read 0 (R47). -/
structure Status where
  busy : Bool
  done : Bool
  err : Bool
  errcode : BitVec 3
  outlen : BitVec 5
  tsv : Bool
  dir : Bool
  wign : Bool
deriving DecidableEq, Repr

/-- One operation of a host program (spec/30_encoding.md R120): a bus access of any width (R73), or POLL. -/
inductive HostOp where
  /-- A read of `bits` bits at a window address. -/
  | read (addr : HostAddr) (bits : Nat)
  /-- A write of `bits` bits at a window address; `data` is what a 32-bit write carries. -/
  | write (addr : HostAddr) (bits : Nat) (data : Word)
  /-- POLL: 32-bit reads of `addr`, repeated until `(data & mask) = value`. -/
  | poll (addr : HostAddr) (mask value : Word)
deriving DecidableEq, Repr

/-- The block's answer to one bus access (R230): an error flag, and for a read the data. -/
structure Response where
  error : Bool
  data : Option Word
deriving DecidableEq, Repr

/-- Who takes a step of the interleaving (spec/20_memory.md R90). -/
inductive Turn where
  /-- One host access. -/
  | host
  /-- One engine completion. -/
  | engine
  /-- Reset. -/
  | reset
deriving DecidableEq, Repr

/-- The bytes of TMEM written since the last reset, by rising offset. An offset that is not listed has not been written (log entry 1). -/
abbrev Memory := List Host.Cell

/-- The state of the block (R30), and after it the model's own fields: the draw of TMEM_INIT, the counter of free values,
the host's operations still to come, the interleaving still to come, and the bus responses given so far (log entries 1, 2, 4, 7). -/
structure State where
  status : Status
  /-- IRQEN.IE (R49). -/
  ie : Bool
  din : Block
  dout : Block
  tmem : Memory
  /-- The latched command word LCMD (R54). Written at accept and at reset only, so it outlives its command (log entries 3, 20). -/
  lcmd : Word
  /-- The round state σ (R55). -/
  sigma : Block
  /-- The round counter r (R37, R55). -/
  round : Nat
  /-- Which draw of TMEM_INIT the unwritten bytes of TMEM hold. -/
  era : Nat
  /-- How many free values of the hidden engine state have been drawn. -/
  freeCount : Nat
  /-- What the host has still to do, in its order. -/
  host : List HostOp
  /-- Whose steps come next; when it is empty, the engine's if a command is in flight, else the host's. -/
  turns : List Turn
  /-- The bus responses so far, newest first. -/
  responses : List Response
deriving DecidableEq, Repr

/-- The reasons a step can stop the machine. -/
inductive Fault where
  /-- Raised by a host's POLL whose condition is false while no command is in flight and no reset is to come: nothing can change what it
  reads, so it never ends (spec/93_implementation_defined.md U18, treatment `stuck`; log entry 6). Safe: no further step is claimed. -/
  | pollNeverEnds
deriving DecidableEq, Repr

/-- The reasons an instruction can have no meaning. -/
inductive Refusal where
  /-- Raised by an arm of `exec` whose instruction is not modelled yet; no arm does. Safe: nothing is claimed of the instruction. -/
  | notModelled (mnemonic : String)
deriving DecidableEq, Repr

/-- Every STATUS field 0 (R57). -/
def Status.zero : Status :=
  { busy := false, done := false, err := false, errcode := 0#3, outlen := 0#5, tsv := false, dir := false, wign := false }

/-- Sixteen bytes 0x00. -/
def zeroBlock : Block := #v[0, 0, 0, 0, 0, 0, 0, 0, 0, 0, 0, 0, 0, 0, 0, 0]

/-- The machine after reset (R57, R261): idle, every register 0, no byte of TMEM written. LCMD, σ and r have no reset value in the spec and are
0 here (log entry 3); the model's own counters start at 0, and no host operation is pending. -/
def State.reset : State :=
  { status := Status.zero, ie := false, din := zeroBlock, dout := zeroBlock, tmem := [], lcmd := 0#32, sigma := zeroBlock, round := 0,
    era := 0, freeCount := 0, host := [], turns := [], responses := [] }

end Sys2Proof.Machine
end

