-- ==== Sys2Proof/Machine/Flags.lean ====
section
/-! DEFINITION. STATUS and irq: the word a host reads, and every update the rules make of the STATUS fields
(spec/10_state.md R38..R50, spec/30_encoding.md R113, spec/60_exceptions.md R221, R225, R226). -/

namespace Sys2Proof.Machine

/-- STATUS as a word, from bit 31 down to bit 0 (R38); the reserved fields are 0 (R47). -/
def Status.toWord (st : Status) : Word :=
  0#7 ++ BitVec.ofBool st.wign ++ 0#6 ++ BitVec.ofBool st.dir ++ BitVec.ofBool st.tsv ++ 0#3 ++ st.outlen ++ 0#2 ++ st.errcode ++
    BitVec.ofBool st.err ++ BitVec.ofBool st.done ++ BitVec.ofBool st.busy

/-- ERRCODE of each error kind (R221). -/
def CmdError.code (e : CmdError) : BitVec 3 :=
  match e with
  | .malformedTableSet => 1#3
  | .invalidPadding => 2#3
  | .illegalCommand => 3#3

/-- The STATUS writes of an accept (R113). -/
def Status.accept (st : Status) : Status :=
  { st with busy := true, done := false, err := false, errcode := 0#3 }

/-- The STATUS writes that every completion without error makes (R225). -/
def Status.succeed (st : Status) : Status :=
  { st with busy := false, done := true, err := false, errcode := 0#3 }

/-- The STATUS writes that every completion with error `e` makes (R225, R226). -/
def Status.fail (st : Status) (e : CmdError) : Status :=
  { st with busy := false, done := true, err := true, errcode := e.code }

/-- A host write of `v` to STATUS: write-one-to-clear of DONE (bit 1) and WIGN (bit 24), nothing else (R48). -/
def Status.writeOneToClear (st : Status) (v : Word) : Status :=
  { st with done := if v.getLsbD 1 then false else st.done, wign := if v.getLsbD 24 then false else st.wign }

/-- The interrupt output `irq = STATUS.DONE and IRQEN.IE` (R50). -/
def State.irq (s : State) : Bool := s.status.done && s.ie

end Sys2Proof.Machine
end

