-- ==== Sys2Proof/Machine/Operands.lean ====
section
/-! DEFINITION. Every operand form: bytes and words of a block, little-endian reads of an image, the LEN operand, the fields and offsets of the
table-set artifact, and the targets of a host address (spec/00_scope.md R10..R12, spec/20_memory.md R71..R86, spec/30_encoding.md R116). -/

namespace Sys2Proof.Machine

/-- Four bytes combined little-endian: `b0` in bits 7:0 (R12, R74). -/
def word4 (b0 b1 b2 b3 : Byte) : Word := b3 ++ b2 ++ b1 ++ b0

/-- Byte `i` of a word, bits 8i+7:8i (R74). -/
def byteOfWord (w : Word) (i : Nat) : Byte := w.extractLsb' (8 * i) 8

/-- The word register `i` of a 16-byte register: byte `4i+b` in bits 8b+7:8b (R11, R74). -/
def blockWord (x : Block) (i : Fin 4) : Word :=
  word4 x[4 * i.val] x[4 * i.val + 1] x[4 * i.val + 2] x[4 * i.val + 3]

/-- A write of word register `i` of a 16-byte register replaces its four bytes (R51, R74). -/
def setBlockWord (x : Block) (i : Fin 4) (w : Word) : Block :=
  Vector.ofFn fun k : Lane => if k.val / 4 = i.val then byteOfWord w (k.val % 4) else x[k]

/-- `MemRead(a, 1)` (R12). -/
def memRead1 (t : Image) (a : Nat) : Byte := t a

/-- `MemRead(a, 4)`, little-endian (R12). -/
def memRead4 (t : Image) (a : Nat) : Word := word4 (t a) (t (a + 1)) (t (a + 2)) (t (a + 3))

/-- The LEN operand: `m = zext_32(LEN)`, unsigned and unscaled (R116). -/
def lenValue (len : BitVec 5) : Nat := len.toNat

/-- SUBOFF(r, j), where the 256 one-byte entries of SUB[r][j] begin (R84). -/
def subOff (r j : Nat) : Nat := 0x20 + 0x1000 * (r - 1) + 0x100 * j

/-- MCOFF(r, j), where the 256 four-byte entries of MC[r][j] begin (R85). -/
def mcOff (r j : Nat) : Nat := 0xA020 + 0x4000 * (r - 1) + 0x400 * j

/-- The entry SUB[r][j][x] (R84). -/
def subEntry (t : Image) (r j : Nat) (x : Byte) : Byte := memRead1 t (subOff r j + x.toNat)

/-- The entry MC[r][j][y] (R85). -/
def mcEntry (t : Image) (r j : Nat) (y : Byte) : Word := memRead4 t (mcOff r j + 4 * y.toNat)

/-- DIRB, the header's direction byte (R83, R141). -/
def dirb (t : Image) : Byte := memRead1 t 0x08

/-- The header predicate HdrOK (R141). -/
def hdrOK (t : Image) : Bool :=
  memRead4 t 0x00 == 0x45414257#32 &&
  memRead4 t 0x04 == 0x38323153#32 &&
  (memRead4 t 0x08 == 0x10100A00#32 || memRead4 t 0x08 == 0x10100A01#32) &&
  memRead4 t 0x0C == 0x04010100#32 &&
  memRead4 t 0x10 == 0x0002E020#32 &&
  memRead4 t 0x14 == 0#32 && memRead4 t 0x18 == 0#32 && memRead4 t 0x1C == 0#32

/-- What a window address names (R71). -/
inductive Target where
  | id
  | cmd
  | status
  | irqen
  | din (i : Fin 4)
  | dout (i : Fin 4)
  | tmem (off : Nat)
  | unmapped
deriving DecidableEq, Repr

/-- The host window map (R71), read at an address that is a multiple of 4. -/
def targetOf (a : HostAddr) : Target :=
  if a.toNat < 0x04 then .id
  else if a.toNat < 0x08 then .cmd
  else if a.toNat < 0x0C then .status
  else if a.toNat < 0x10 then .irqen
  else if a.toNat < 0x20 then .din (Fin.ofNat 4 (a.toNat / 4))
  else if a.toNat < 0x30 then .dout (Fin.ofNat 4 (a.toNat / 4))
  else if a.toNat < 0x40000 then .unmapped
  else .tmem (a.toNat - 0x40000)

/-- The accesses that get a bus error response (R72, R73, R230): not 32 bits wide, not at a multiple of 4, or unmapped. -/
def isBusError (a : HostAddr) (bits : Nat) : Bool :=
  bits != 32 || a.toNat % 4 != 0 || targetOf a == .unmapped

end Sys2Proof.Machine
end

