-- ==== Sys2Proof/Machine/Ops.lean ====
section
/-! DEFINITION. The named operations over the state that the meanings share: the table memory, accept, completion with and without an error,
reset, and one host read or write (spec/10_state.md R44..R58, spec/20_memory.md R77..R81, spec/30_encoding.md R113, spec/60_exceptions.md R225..R230). -/

namespace Sys2Proof.Machine

/-- The byte written at offset `k` since reset, if one was. -/
def Memory.written (m : Memory) (k : Nat) : Option Byte :=
  match m with
  | [] => none
  | (a, b) :: rest => if a = k then some b else Memory.written rest k

/-- Writes the byte at offset `k`, keeping the offsets strictly rising. -/
def Memory.writeByte (m : Memory) (k : Nat) (v : Byte) : Memory :=
  match m with
  | [] => [(k, v)]
  | (a, b) :: rest =>
    if k < a then (k, v) :: (a, b) :: rest
    else if k = a then (k, v) :: rest
    else (a, b) :: Memory.writeByte rest k v

/-- `MemWrite(k, 4, v)`: byte `i` of `v` to offset `k + i` (R12). -/
def Memory.writeWord (m : Memory) (k : Nat) (v : Word) : Memory :=
  (((m.writeByte k (byteOfWord v 0)).writeByte (k + 1) (byteOfWord v 1)).writeByte (k + 2) (byteOfWord v 2)).writeByte (k + 3) (byteOfWord v 3)

/-- The canonical form of the table memory: offsets strictly rising, all inside TMEM (R53). What an unlisted offset reads as is no fixed byte,
so no entry can equal it (log entry 1). -/
abbrev Memory.wf (m : Memory) : Prop :=
  m.Pairwise (fun c d => c.1 < d.1) ∧ ∀ c ∈ m, c.1 < Config.tmemBytes

/-- The contents of TMEM: the byte written since reset, or the draw of TMEM_INIT (R53, R262). The ONE definition of what an unlisted offset reads as. -/
def State.image (s : State) : Image :=
  fun a => (s.tmem.written a).getD (Config.tmemInit s.era a)

/-- Accept (R113): the five writes of an accepted CMD word, and nothing else. -/
def State.accept (s : State) (v : Word) : State :=
  { s with lcmd := v, status := s.status.accept }

/-- `complete` (R13, R225): the completion of a command without error. LCMD keeps the accepted word (log entry 20). -/
def State.complete (s : State) : State :=
  { s with status := s.status.succeed }

/-- `raise e` (R13, R225, R226): the completion of a command with an error, the block's one way of taking an exception.
LCMD keeps the accepted word (log entry 20). -/
def State.raiseError (s : State) (e : CmdError) : State :=
  { s with status := s.status.fail e }

/-- STATUS.TSV <- v. -/
def State.setTsv (s : State) (v : Bool) : State :=
  { s with status := { s.status with tsv := v } }

/-- STATUS.DIR <- v. -/
def State.setDir (s : State) (v : Bool) : State :=
  { s with status := { s.status with dir := v } }

/-- STATUS.WIGN <- 1 (R44). -/
def State.setWign (s : State) : State :=
  { s with status := { s.status with wign := true } }

/-- DOUT[0..15] <- o, all at once, and STATUS.OUTLEN <- n (R43, R52). -/
def State.output (s : State) (o : Block) (n : BitVec 5) : State :=
  { s with dout := o, status := { s.status with outlen := n } }

/-- Reset (R57, R260): every piece of the block's state at its reset value, TMEM at a new draw, the command in flight abandoned. The host's side of
the model is not the block's and stays (log entry 10). -/
def State.resetBlock (s : State) : State :=
  { State.reset with era := s.era + 1, freeCount := s.freeCount, host := s.host, turns := s.turns, responses := s.responses }

/-- What a 32-bit read of a target returns, BUSY or not (R31, R32, R38, R49, R51, R52, R58, R81). An unmapped address gives data 0 (R72). -/
def State.readTarget (s : State) (t : Target) : Word :=
  match t with
  | .id => Config.idWord
  | .cmd => 0#32
  | .status => s.status.toWord
  | .irqen => 0#31 ++ BitVec.ofBool s.ie
  | .din i => blockWord s.din i
  | .dout i => blockWord s.dout i
  | .tmem off => memRead4 s.image off
  | .unmapped => 0#32

/-- What a 32-bit write of `v` to a target does (R58, R79): submission of a command (R32), W1C of STATUS (R48), IRQEN (R49), DIN (R51), TMEM (R80); writes to
ID and DOUT are ignored (R31, R52), and while BUSY writes to CMD, DIN and TMEM only set WIGN (R44). -/
def State.writeTarget (s : State) (t : Target) (v : Word) : State :=
  match t with
  | .id => s
  | .cmd => if s.status.busy then s.setWign else s.accept v
  | .status => { s with status := s.status.writeOneToClear v }
  | .irqen => { s with ie := v.getLsbD 0 }
  | .din i => if s.status.busy then s.setWign else { s with din := setBlockWord s.din i v }
  | .dout _ => s
  | .tmem off => if s.status.busy then s.setWign else { s with tmem := s.tmem.writeWord off v }.setTsv false
  | .unmapped => s

/-- The response to a host read: data 0 with a bus error, else the target's word (R72, R73, R230). -/
def State.hostRead (s : State) (a : HostAddr) (bits : Nat) : Response :=
  if isBusError a bits then { error := true, data := some 0#32 } else { error := false, data := some (s.readTarget (targetOf a)) }

/-- The state after a host write: a bus error, checked before BUSY, has no effect (R230). -/
def State.hostWrite (s : State) (a : HostAddr) (bits : Nat) (v : Word) : State :=
  if isBusError a bits then s else s.writeTarget (targetOf a) v

/-- Records the response of one bus access. -/
def State.respond (s : State) (r : Response) : State :=
  { s with responses := r :: s.responses }

end Sys2Proof.Machine
end

