-- ==== Sys2Proof/Machine/Cipher.lean ====
section
/-! DEFINITION. The cipher family: the ShiftRows wiring, the table network WB, EVAL and CHECK (spec/40_cipher.md R140..R166). -/

namespace Sys2Proof.Machine

/-- P_E, the ShiftRows wiring (R147). -/
def wiringE : Wiring := #v[0, 5, 10, 15, 4, 9, 14, 3, 8, 13, 2, 7, 12, 1, 6, 11]

/-- P_D, the InvShiftRows wiring (R147). -/
def wiringD : Wiring := #v[0, 13, 10, 7, 4, 1, 14, 11, 8, 5, 2, 15, 12, 9, 6, 3]

/-- `P <- (DIRB = 0) ? P_E : P_D` (R147, R153). -/
def wiringOf (d : Byte) : Wiring := if d = 0#8 then wiringE else wiringD

/-- Applying a wiring: `t[j] = s[P(j)]` (R14). -/
def wire (p : Wiring) (s : Block) : Block := Vector.ofFn fun j : Lane => s[p[j]]

/-- The 16 SUB lookups of round `r` (R148). -/
def subLayer (t : Image) (r : Nat) (x : Block) : Block := Vector.ofFn fun j : Lane => subEntry t r j.val x[j]

/-- The XOR of the four MC entries of column `c` in round `r` (R148, R149). -/
def mcColumn (t : Image) (r : Nat) (u : Block) (c : Fin 4) : Word :=
  mcEntry t r (4 * c.val) u[4 * c.val] ^^^ mcEntry t r (4 * c.val + 1) u[4 * c.val + 1] ^^^
    mcEntry t r (4 * c.val + 2) u[4 * c.val + 2] ^^^ mcEntry t r (4 * c.val + 3) u[4 * c.val + 3]

/-- The MC lookups, the column XORs and the lane split of round `r`: byte `i` of column `c` becomes lane `4c + i` (R149). -/
def mcLayer (t : Image) (r : Nat) (u : Block) : Block :=
  Vector.ofFn fun k : Lane => byteOfWord (mcColumn t r u ⟨k.val / 4, by omega⟩) (k.val % 4)

/-- One of the rounds 1..9 of the network (R148). -/
def netRound (t : Image) (p : Wiring) (r : Nat) (s : Block) : Block := mcLayer t r (subLayer t r (wire p s))

/-- The last round: wiring and SUB lookups, no MC (R148, R150). -/
def lastRound (t : Image) (p : Wiring) (r : Nat) (s : Block) : Block := subLayer t r (wire p s)

/-- The round state after rounds 1..n (R148). -/
def netRounds (t : Image) (p : Wiring) (n : Nat) (b : Block) : Block :=
  match n with
  | 0 => b
  | n + 1 => netRound t p (n + 1) (netRounds t p n b)

/-- The network function `WB(TMEM, P, b)` (R148). -/
def wb (t : Image) (p : Wiring) (b : Block) : Block :=
  lastRound t p Config.nRounds (netRounds t p (Config.nRounds - 1) b)

/-- σ and r at the start of an EVAL (R55): the input block, and round 1. -/
def State.startWalk (s : State) : State := { s with sigma := s.din, round := 1 }

/-- One round 1..9 on σ, after which r counts on (R37, R55). -/
def State.walkRound (p : Wiring) (s : State) : State :=
  { s with sigma := netRound s.image p s.round s.sigma, round := s.round + 1 }

/-- `n` rounds on σ and r. -/
def State.walkRounds (p : Wiring) (n : Nat) (s : State) : State :=
  match n with
  | 0 => s
  | n + 1 => State.walkRound p (State.walkRounds p n s)

/-- The output of the last round, at the round the counter has reached (R148, R150). -/
def State.walkOutput (p : Wiring) (s : State) : Block := lastRound s.image p s.round s.sigma

/-- σ and r do not survive completion (R55): from here on they hold free values (U11, log entry 2). -/
def State.dropWalk (s : State) : State :=
  { s with sigma := Config.freeSigma s.freeCount, round := Config.freeRound s.freeCount, freeCount := s.freeCount + 1 }

/-- What EVAL writes to DOUT: the fixed walk of nine rounds and the last one, run through σ and r (R36, R55, R148, R153). -/
def State.evalBlock (s : State) : Block :=
  State.walkOutput (wiringOf (dirb s.image)) (State.walkRounds (wiringOf (dirb s.image)) (Config.nRounds - 1) s.startWalk)

/-- EVAL and CHECK record a header that passed: TSV and DIR (R45, R46, R153, R158). -/
def State.noteHeader (s : State) : State := (s.setTsv true).setDir ((dirb s.image).getLsbD 0)

/-- EVAL and CHECK on a header that failed: TSV <- 0, then MalformedTableSet (R153, R158). -/
def State.refuseHeader (s : State) : State := (s.setTsv false).raiseError .malformedTableSet

/-- EVAL (R153). -/
def execEval (s : State) : Host.Outcome State Fault Refusal :=
  .next (if hdrOK s.image then ((s.output s.evalBlock 16#5).noteHeader.complete).dropWalk else s.refuseHeader.dropWalk)

/-- CHECK (R158). -/
def execCheck (s : State) : Host.Outcome State Fault Refusal :=
  .next (if hdrOK s.image then s.noteHeader.complete else s.refuseHeader)

end Sys2Proof.Machine
end

