-- ==== Sys2Proof/Machine/Padding.lean ====
section
/-! DEFINITION. The padding family: PAD and UNPAD (spec/41_padding.md R190..R197). -/

namespace Sys2Proof.Machine

/-- The padded block of an `m`-byte chunk: `m` bytes of DIN, then `16 - m` bytes of value `16 - m` (R192). -/
def padBlock (x : Block) (m : Nat) : Block :=
  Vector.ofFn fun k : Lane => if k.val < m then x[k] else BitVec.ofNat 8 (16 - m)

/-- PadOK (R195): `1 ≤ n ≤ 16` for the last byte `n`, and the last `n` bytes all equal `n`. -/
def padOK (x : Block) : Bool :=
  decide (1 ≤ x[15].toNat ∧ x[15].toNat ≤ 16 ∧ ∀ k : Lane, 16 - x[15].toNat ≤ k.val → x[k] = x[15])

/-- The stripped block: the data bytes, then 0x00 (R196). -/
def unpadBlock (x : Block) : Block :=
  Vector.ofFn fun k : Lane => if k.val < 16 - x[15].toNat then x[k] else 0#8

/-- PAD (R192). Only LEN 0..15 is PAD; a word with LEN 16..31 is illegal and ends in IllegalCommand (R118(d), log entry 9). -/
def execPad (len : BitVec 5) (s : State) : Host.Outcome State Fault Refusal :=
  .next (if lenValue len ≤ 15 then (s.output (padBlock s.din (lenValue len)) 16#5).complete else s.raiseError .illegalCommand)

/-- UNPAD (R196). -/
def execUnpad (s : State) : Host.Outcome State Fault Refusal :=
  .next (if padOK s.din then (s.output (unpadBlock s.din) (BitVec.ofNat 5 (16 - s.din[15].toNat))).complete else s.raiseError .invalidPadding)

end Sys2Proof.Machine
end

