-- ==== Sys2Proof/Machine/Dispatch.lean ====
section
/-! DEFINITION. One arm per command: the completion step of a decoded command (spec/60_exceptions.md R225). -/

namespace Sys2Proof.Machine

/-- `run(verdict)` of R225 with the STATUS writes of the completion, for a legal command. -/
def exec (i : Instr) (s : State) : Host.Outcome State Fault Refusal :=
  match i with
  | .eval => Sys2Proof.Machine.execEval s
  | .pad len => Sys2Proof.Machine.execPad len s
  | .unpad => Sys2Proof.Machine.execUnpad s
  | .check => Sys2Proof.Machine.execCheck s

end Sys2Proof.Machine
end

