-- ==== Sys2Proof/Machine/Engine.lean ====
section
/-! DEFINITION. The agents' turns: the engine's completion, one host operation, reset, and whose turn it is
(spec/00_scope.md R7, spec/20_memory.md R90, spec/60_exceptions.md R225). -/

namespace Sys2Proof.Machine

/-- The engine's step (R225): enabled exactly when BUSY = 1; the latched word is decoded and run, or ends in IllegalCommand (R114, R118).
While BUSY = 0 it is not enabled and nothing happens (log entry 5). -/
def engineTurn (s : State) : Host.Outcome State Fault Refusal :=
  if s.status.busy then
    match decode s.lcmd with
    | .ok i => exec i s
    | .error _ => .next (s.raiseError .illegalCommand)
  else .next s

/-- POLL's condition on one response: `(data & mask) = value` (R120). -/
def pollDone (r : Response) (mask value : Word) : Bool := (r.data.getD 0#32 &&& mask) == value

/-- The host's step: one access of its list (R90, R120). A POLL reads once and stays until its condition holds; one that can never hold is stuck (U18,
log entry 6). -/
def hostTurn (s : State) : Host.Outcome State Fault Refusal :=
  match s.host with
  | [] => .next s
  | .read a bits :: rest => .next ({ s with host := rest }.respond (s.hostRead a bits))
  | .write a bits v :: rest => .next (({ s with host := rest }.hostWrite a bits v).respond { error := isBusError a bits, data := none })
  | .poll a mask value :: rest =>
    if pollDone (s.hostRead a 32) mask value then .next ({ s with host := rest }.respond (s.hostRead a 32))
    else if s.status.busy || s.turns.contains .reset then .next (s.respond (s.hostRead a 32))
    else .fault .pollNeverEnds

/-- Whose turn it is: the head of the interleaving; past its end the engine completes what is in flight before the host goes on (R90, R283, log entry 4). -/
def State.turn (s : State) : Turn :=
  match s.turns with
  | t :: _ => t
  | [] => if s.status.busy then .engine else .host

/-- The interleaving after this turn. -/
def State.popTurn (s : State) : State := { s with turns := s.turns.tail }

/-- One atomic step by the agent whose turn it is (R90). -/
def takeTurn (t : Turn) (s : State) : Host.Outcome State Fault Refusal :=
  match t with
  | .host => hostTurn s
  | .engine => engineTurn s
  | .reset => .next s.resetBlock

/-- The command word `v` accepted and its completion due next. -/
def State.commandDue (s : State) (v : Word) : State :=
  { s.accept v with turns := .engine :: s.turns }

end Sys2Proof.Machine
end

