-- ==== Sys2Proof/Machine/Step.lean ====
section
/-! DEFINITION. One step of the machine: one atomic step of the interleaving of host accesses, completions and resets (spec/20_memory.md R90). -/

namespace Sys2Proof.Machine

/-- One step (R90). -/
def step (s : State) : Host.Outcome State Fault Refusal := takeTurn s.turn s.popTurn

/-- The word `w` accepted as the command in flight (R113), its completion the very next step (log entry 8). -/
def State.withFetchWord (s : State) (nbits w : Nat) : State := s.commandDue (BitVec.ofNat 32 (w % 2 ^ nbits))

end Sys2Proof.Machine
end

