-- ==== Sys2Proof/Machine/Aes.lean ====
section
/-! DEFINITION. AES-128 as the host's contract names it: the FIPS-197 Cipher, InvCipher and KeyExpansion (spec/40_cipher.md R160, R162;
spec/93_implementation_defined.md K1..K9). No step of the machine uses anything of this file: the block only looks up tables (R146).
PRESUMED where the spec names a FIPS-197 function without giving it (log entry 12). -/

namespace Sys2Proof.Machine.Aes

/-- The AES S-box, row = high nibble (R162). -/
def sboxTable : List Byte :=
  [0x63, 0x7c, 0x77, 0x7b, 0xf2, 0x6b, 0x6f, 0xc5, 0x30, 0x01, 0x67, 0x2b, 0xfe, 0xd7, 0xab, 0x76] ++
  [0xca, 0x82, 0xc9, 0x7d, 0xfa, 0x59, 0x47, 0xf0, 0xad, 0xd4, 0xa2, 0xaf, 0x9c, 0xa4, 0x72, 0xc0] ++
  [0xb7, 0xfd, 0x93, 0x26, 0x36, 0x3f, 0xf7, 0xcc, 0x34, 0xa5, 0xe5, 0xf1, 0x71, 0xd8, 0x31, 0x15] ++
  [0x04, 0xc7, 0x23, 0xc3, 0x18, 0x96, 0x05, 0x9a, 0x07, 0x12, 0x80, 0xe2, 0xeb, 0x27, 0xb2, 0x75] ++
  [0x09, 0x83, 0x2c, 0x1a, 0x1b, 0x6e, 0x5a, 0xa0, 0x52, 0x3b, 0xd6, 0xb3, 0x29, 0xe3, 0x2f, 0x84] ++
  [0x53, 0xd1, 0x00, 0xed, 0x20, 0xfc, 0xb1, 0x5b, 0x6a, 0xcb, 0xbe, 0x39, 0x4a, 0x4c, 0x58, 0xcf] ++
  [0xd0, 0xef, 0xaa, 0xfb, 0x43, 0x4d, 0x33, 0x85, 0x45, 0xf9, 0x02, 0x7f, 0x50, 0x3c, 0x9f, 0xa8] ++
  [0x51, 0xa3, 0x40, 0x8f, 0x92, 0x9d, 0x38, 0xf5, 0xbc, 0xb6, 0xda, 0x21, 0x10, 0xff, 0xf3, 0xd2] ++
  [0xcd, 0x0c, 0x13, 0xec, 0x5f, 0x97, 0x44, 0x17, 0xc4, 0xa7, 0x7e, 0x3d, 0x64, 0x5d, 0x19, 0x73] ++
  [0x60, 0x81, 0x4f, 0xdc, 0x22, 0x2a, 0x90, 0x88, 0x46, 0xee, 0xb8, 0x14, 0xde, 0x5e, 0x0b, 0xdb] ++
  [0xe0, 0x32, 0x3a, 0x0a, 0x49, 0x06, 0x24, 0x5c, 0xc2, 0xd3, 0xac, 0x62, 0x91, 0x95, 0xe4, 0x79] ++
  [0xe7, 0xc8, 0x37, 0x6d, 0x8d, 0xd5, 0x4e, 0xa9, 0x6c, 0x56, 0xf4, 0xea, 0x65, 0x7a, 0xae, 0x08] ++
  [0xba, 0x78, 0x25, 0x2e, 0x1c, 0xa6, 0xb4, 0xc6, 0xe8, 0xdd, 0x74, 0x1f, 0x4b, 0xbd, 0x8b, 0x8a] ++
  [0x70, 0x3e, 0xb5, 0x66, 0x48, 0x03, 0xf6, 0x0e, 0x61, 0x35, 0x57, 0xb9, 0x86, 0xc1, 0x1d, 0x9e] ++
  [0xe1, 0xf8, 0x98, 0x11, 0x69, 0xd9, 0x8e, 0x94, 0x9b, 0x1e, 0x87, 0xe9, 0xce, 0x55, 0x28, 0xdf] ++
  [0x8c, 0xa1, 0x89, 0x0d, 0xbf, 0xe6, 0x42, 0x68, 0x41, 0x99, 0x2d, 0x0f, 0xb0, 0x54, 0xbb, 0x16]

/-- The AES inverse S-box, row = high nibble (R162). -/
def invSboxTable : List Byte :=
  [0x52, 0x09, 0x6a, 0xd5, 0x30, 0x36, 0xa5, 0x38, 0xbf, 0x40, 0xa3, 0x9e, 0x81, 0xf3, 0xd7, 0xfb] ++
  [0x7c, 0xe3, 0x39, 0x82, 0x9b, 0x2f, 0xff, 0x87, 0x34, 0x8e, 0x43, 0x44, 0xc4, 0xde, 0xe9, 0xcb] ++
  [0x54, 0x7b, 0x94, 0x32, 0xa6, 0xc2, 0x23, 0x3d, 0xee, 0x4c, 0x95, 0x0b, 0x42, 0xfa, 0xc3, 0x4e] ++
  [0x08, 0x2e, 0xa1, 0x66, 0x28, 0xd9, 0x24, 0xb2, 0x76, 0x5b, 0xa2, 0x49, 0x6d, 0x8b, 0xd1, 0x25] ++
  [0x72, 0xf8, 0xf6, 0x64, 0x86, 0x68, 0x98, 0x16, 0xd4, 0xa4, 0x5c, 0xcc, 0x5d, 0x65, 0xb6, 0x92] ++
  [0x6c, 0x70, 0x48, 0x50, 0xfd, 0xed, 0xb9, 0xda, 0x5e, 0x15, 0x46, 0x57, 0xa7, 0x8d, 0x9d, 0x84] ++
  [0x90, 0xd8, 0xab, 0x00, 0x8c, 0xbc, 0xd3, 0x0a, 0xf7, 0xe4, 0x58, 0x05, 0xb8, 0xb3, 0x45, 0x06] ++
  [0xd0, 0x2c, 0x1e, 0x8f, 0xca, 0x3f, 0x0f, 0x02, 0xc1, 0xaf, 0xbd, 0x03, 0x01, 0x13, 0x8a, 0x6b] ++
  [0x3a, 0x91, 0x11, 0x41, 0x4f, 0x67, 0xdc, 0xea, 0x97, 0xf2, 0xcf, 0xce, 0xf0, 0xb4, 0xe6, 0x73] ++
  [0x96, 0xac, 0x74, 0x22, 0xe7, 0xad, 0x35, 0x85, 0xe2, 0xf9, 0x37, 0xe8, 0x1c, 0x75, 0xdf, 0x6e] ++
  [0x47, 0xf1, 0x1a, 0x71, 0x1d, 0x29, 0xc5, 0x89, 0x6f, 0xb7, 0x62, 0x0e, 0xaa, 0x18, 0xbe, 0x1b] ++
  [0xfc, 0x56, 0x3e, 0x4b, 0xc6, 0xd2, 0x79, 0x20, 0x9a, 0xdb, 0xc0, 0xfe, 0x78, 0xcd, 0x5a, 0xf4] ++
  [0x1f, 0xdd, 0xa8, 0x33, 0x88, 0x07, 0xc7, 0x31, 0xb1, 0x12, 0x10, 0x59, 0x27, 0x80, 0xec, 0x5f] ++
  [0x60, 0x51, 0x7f, 0xa9, 0x19, 0xb5, 0x4a, 0x0d, 0x2d, 0xe5, 0x7a, 0x9f, 0x93, 0xc9, 0x9c, 0xef] ++
  [0xa0, 0xe0, 0x3b, 0x4d, 0xae, 0x2a, 0xf5, 0xb0, 0xc8, 0xeb, 0xbb, 0x3c, 0x83, 0x53, 0x99, 0x61] ++
  [0x17, 0x2b, 0x04, 0x7e, 0xba, 0x77, 0xd6, 0x26, 0xe1, 0x69, 0x14, 0x63, 0x55, 0x21, 0x0c, 0x7d]

/-- S(x) (R162). -/
def sbox (x : Byte) : Byte := sboxTable.getD x.toNat 0

/-- InvS(x) (R162). -/
def invSbox (x : Byte) : Byte := invSboxTable.getD x.toNat 0

/-- Multiplication by x in GF(2^8) modulo 0x11B (R162). -/
def xtime (b : Byte) : Byte := if b.getLsbD 7 then (b <<< 1) ^^^ 0x1B#8 else b <<< 1

/-- Bits 0 to n-1 of `a`, times `b`, in GF(2^8). -/
def gmulBits (n : Nat) (a b : Byte) : Byte :=
  match n with
  | 0 => 0#8
  | n + 1 => (if a.getLsbD 0 then b else 0#8) ^^^ gmulBits n (a >>> 1) (xtime b)

/-- `gmul(a, b)`, multiplication in GF(2^8) modulo x^8+x^4+x^3+x+1 (R162, K6). -/
def gmul (a b : Byte) : Byte := gmulBits 8 a b

/-- A 4×4 matrix over GF(2^8), by rows. -/
abbrev Matrix4 := Vector (Vector Byte 4) 4

/-- The matrix whose row `i` is `top` moved right by `i` places, round the end. -/
def rotationsOf (top : Vector Byte 4) : Matrix4 :=
  Vector.ofFn fun i : Fin 4 => Vector.ofFn fun j : Fin 4 => top[j - i]

/-- M, the MixColumns matrix (R162, K8): the four rows R162 lists are the rotations of the first. -/
def mixMatrix : Matrix4 := rotationsOf #v[2, 3, 1, 1]

/-- Mi, the InvMixColumns matrix (R162, K8): the four rows R162 lists are the rotations of the first. -/
def invMixMatrix : Matrix4 := rotationsOf #v[14, 11, 13, 9]

/-- A matrix applied to each column of the state, in the layout of R75: row `k mod 4`, column `k div 4`. -/
def mixWith (m : Matrix4) (s : Block) : Block :=
  Vector.ofFn fun k : Lane =>
    gmul (m[k.val % 4])[0] s[4 * (k.val / 4)] ^^^ gmul (m[k.val % 4])[1] s[4 * (k.val / 4) + 1] ^^^
      gmul (m[k.val % 4])[2] s[4 * (k.val / 4) + 2] ^^^ gmul (m[k.val % 4])[3] s[4 * (k.val / 4) + 3]

/-- SubBytes. -/
def subBytes (s : Block) : Block := Vector.ofFn fun k : Lane => sbox s[k]

/-- InvSubBytes. -/
def invSubBytes (s : Block) : Block := Vector.ofFn fun k : Lane => invSbox s[k]

/-- ShiftRows, as the index permutation P_E (R147, K2). -/
def shiftRows (s : Block) : Block := wire wiringE s

/-- InvShiftRows, as the index permutation P_D (R147, K2). -/
def invShiftRows (s : Block) : Block := wire wiringD s

/-- MixColumns. -/
def mixColumns (s : Block) : Block := mixWith mixMatrix s

/-- InvMixColumns. -/
def invMixColumns (s : Block) : Block := mixWith invMixMatrix s

/-- AddRoundKey: byte-wise XOR. -/
def addRoundKey (s k : Block) : Block := Vector.ofFn fun j : Lane => s[j] ^^^ k[j]

/-- Rcon[n], n from 1: x^(n-1) in GF(2^8). -/
def rcon (n : Nat) : Byte :=
  match n with
  | 0 => 1#8
  | 1 => 1#8
  | n + 2 => xtime (rcon (n + 1))

/-- A 4-byte word of the key schedule, first byte first. -/
abbrev KeyWord := Vector Byte 4

/-- Byte-wise XOR of two key words. -/
def xorKeyWord (a b : KeyWord) : KeyWord := #v[a[0] ^^^ b[0], a[1] ^^^ b[1], a[2] ^^^ b[2], a[3] ^^^ b[3]]

/-- SubWord(RotWord(w)) xor (Rcon[n], 0, 0, 0) of the FIPS-197 KeyExpansion. -/
def keyCore (w : KeyWord) (n : Nat) : KeyWord := #v[sbox w[1] ^^^ rcon n, sbox w[2], sbox w[3], sbox w[0]]

/-- The four words of a round key (bytes 4i to 4i+3). -/
def keyWord (k : Block) (i : Fin 4) : KeyWord := #v[k[4 * i.val], k[4 * i.val + 1], k[4 * i.val + 2], k[4 * i.val + 3]]

/-- Round key `n` from round key `n - 1`: four steps w[i] = w[i-4] xor w[i-1] of the FIPS-197 KeyExpansion, the first through `keyCore`. -/
def nextRoundKey (k : Block) (n : Nat) : Block :=
  let w0 := xorKeyWord (keyWord k 0) (keyCore (keyWord k 3) n)
  let w1 := xorKeyWord (keyWord k 1) w0
  let w2 := xorKeyWord (keyWord k 2) w1
  let w3 := xorKeyWord (keyWord k 3) w2
  w0 ++ w1 ++ w2 ++ w3

/-- The round key k_n, with k_0 = k (R162, K7). -/
def roundKey (k : Block) (n : Nat) : Block :=
  match n with
  | 0 => k
  | n + 1 => nextRoundKey (roundKey k n) (n + 1)

/-- Rounds 1..n of the FIPS-197 Cipher after the initial AddRoundKey. -/
def encryptRounds (k b : Block) (n : Nat) : Block :=
  match n with
  | 0 => addRoundKey b (roundKey k 0)
  | n + 1 => addRoundKey (mixColumns (shiftRows (subBytes (encryptRounds k b n)))) (roundKey k (n + 1))

/-- AES128_Encrypt(k, b), the FIPS-197 Cipher with Nk = 4 and Nr = 10 (R160, K3). -/
def encrypt (k b : Block) : Block := addRoundKey (shiftRows (subBytes (encryptRounds k b 9))) (roundKey k 10)

/-- The first n full rounds of the FIPS-197 InvCipher, with round keys 9, 8, … after the initial AddRoundKey of k_10. -/
def decryptRounds (k c : Block) (n : Nat) : Block :=
  match n with
  | 0 => addRoundKey c (roundKey k 10)
  | n + 1 => invMixColumns (addRoundKey (invSubBytes (invShiftRows (decryptRounds k c n))) (roundKey k (9 - n)))

/-- AES128_Decrypt(k, c), the FIPS-197 InvCipher (R160, K3). -/
def decrypt (k c : Block) : Block := addRoundKey (invSubBytes (invShiftRows (decryptRounds k c 9))) (roundKey k 0)

end Sys2Proof.Machine.Aes
end

