-- ==== Sys2Proof/Machine/Contract.lean ====
section
/-! DEFINITION. The host's contract on table-set contents: artifacts, conformance, the reference table-sets, and the encodings a table-set can carry
(spec/40_cipher.md R160..R165; spec/20_memory.md R82..R86). Premises of claims about AES output, never properties of the machine (R160). -/

namespace Sys2Proof.Machine

/-- The direction of a table-set (R143). -/
inductive Direction where
  | encrypt
  | decrypt
deriving DecidableEq, Repr

/-- The header byte DIR of a direction (R83). -/
def Direction.byte (d : Direction) : Byte :=
  match d with
  | .encrypt => 0#8
  | .decrypt => 1#8

/-- The wiring of a direction (R147). -/
def Direction.wiring (d : Direction) : Wiring :=
  match d with
  | .encrypt => wiringE
  | .decrypt => wiringD

/-- The AES function of a direction (R160). -/
def Direction.aes (d : Direction) (k b : Block) : Block :=
  match d with
  | .encrypt => Aes.encrypt k b
  | .decrypt => Aes.decrypt k b

/-- The 32 header bytes, with the required value in every field (R83). -/
def headerBytes (dir : Byte) : List Byte :=
  [0x57, 0x42, 0x41, 0x45, 0x53, 0x31, 0x32, 0x38, dir, 0x0A, 0x10, 0x10, 0x00, 0x01, 0x01, 0x04,
    0x20, 0xE0, 0x02, 0x00, 0, 0, 0, 0, 0, 0, 0, 0, 0, 0, 0, 0]

/-- The tables of a table-set, by round, lane and entry: SUB and MC (R84, R85). -/
structure Tables where
  sub : Nat → Lane → Byte → Byte
  mc : Nat → Lane → Byte → Word

/-- The artifact with the given direction byte and tables: header, SUB region, MC region (R82). Offsets past the artifact are 0 and belong to no
artifact (log entry 16). -/
def artifact (dir : Byte) (tb : Tables) : Image := fun a =>
  if a < 0x20 then (headerBytes dir).getD a 0
  else if a < 0xA020 then
    tb.sub ((a - 0x20) / 0x1000 + 1) (Fin.ofNat 16 ((a - 0x20) / 0x100)) (BitVec.ofNat 8 (a - 0x20))
  else if a < Config.tsBytes then
    byteOfWord (tb.mc ((a - 0xA020) / 0x4000 + 1) (Fin.ofNat 16 ((a - 0xA020) / 0x400)) (BitVec.ofNat 8 ((a - 0xA020) / 4))) ((a - 0xA020) % 4)
  else 0#8

/-- A TMEM image conforms for a key and a direction (R160). -/
def Conforms (t : Image) (k : Block) (d : Direction) : Prop :=
  hdrOK t = true ∧ dirb t = d.byte ∧ ∀ b : Block, wb t d.wiring b = d.aes k b

/-- The round keys that a reference table-set absorbs: k_i for encryption; e_0 = k_10 and e_i = InvMixColumns(k_{10-i}) for decryption (R162, K9). -/
def refKey (d : Direction) (k : Block) (i : Nat) : Block :=
  match d, i with
  | .encrypt, i => Aes.roundKey k i
  | .decrypt, 0 => Aes.roundKey k 10
  | .decrypt, i + 1 => Aes.invMixColumns (Aes.roundKey k (10 - (i + 1)))

/-- The last key of a reference table-set: k_10 for encryption, k_0 for decryption (R162). -/
def refLastKey (d : Direction) (k : Block) : Block :=
  match d with
  | .encrypt => Aes.roundKey k 10
  | .decrypt => Aes.roundKey k 0

/-- The byte substitution of a direction. -/
def Direction.sbox (d : Direction) (x : Byte) : Byte :=
  match d with
  | .encrypt => Aes.sbox x
  | .decrypt => Aes.invSbox x

/-- The MixColumns matrix of a direction. -/
def Direction.matrix (d : Direction) : Aes.Matrix4 :=
  match d with
  | .encrypt => Aes.mixMatrix
  | .decrypt => Aes.invMixMatrix

/-- The reference SUB entry (R162). -/
def refSub (d : Direction) (k : Block) (r : Nat) (j : Lane) (x : Byte) : Byte :=
  if r ≤ 9 then d.sbox (x ^^^ (refKey d k (r - 1))[d.wiring[j]])
  else d.sbox (x ^^^ (refKey d k 9)[d.wiring[j]]) ^^^ (refLastKey d k)[j]

/-- The reference MC entry: byte `i` is `gmul(M[i][j mod 4], y)` (R162). -/
def refMc (d : Direction) (j : Lane) (y : Byte) : Word :=
  word4 (Aes.gmul (d.matrix[0])[j.val % 4] y) (Aes.gmul (d.matrix[1])[j.val % 4] y)
    (Aes.gmul (d.matrix[2])[j.val % 4] y) (Aes.gmul (d.matrix[3])[j.val % 4] y)

/-- The reference table-set of a key and a direction: TE(k) and TD(k) (R162). -/
def refImage (d : Direction) (k : Block) : Image :=
  artifact d.byte { sub := refSub d k, mc := fun _ j y => refMc d j y }

/-- The encodings of R163, for rounds r = 1..9 and lanes j: the linear part L and constant a of the affine map A, the edge bijection B, and the words K.
An inverse is given beside each map (log entry 17). -/
structure Encoding where
  lin : Nat → Lane → Byte → Byte
  linInv : Nat → Lane → Byte → Byte
  off : Nat → Lane → Byte
  edge : Nat → Lane → Byte → Byte
  edgeInv : Nat → Lane → Byte → Byte
  mask : Nat → Lane → Word

/-- `A_{r,j}^{-1}`, with A_{0,j} the identity (R163). -/
def Encoding.affineInv (e : Encoding) (r : Nat) (j : Lane) (y : Byte) : Byte :=
  if r = 0 then y else e.linInv r j (y ^^^ e.off r j)

/-- Lane `4c + i` of the column of lane `j`. -/
def columnLane (j : Lane) (i : Fin 4) : Lane := ⟨4 * (j.val / 4) + i.val, by omega⟩

/-- Lw_{r, j div 4}: L of lane `4c + i` on byte `i` of a word (R163). -/
def Encoding.linWord (e : Encoding) (r : Nat) (j : Lane) (w : Word) : Word :=
  word4 (e.lin r (columnLane j 0) (byteOfWord w 0)) (e.lin r (columnLane j 1) (byteOfWord w 1))
    (e.lin r (columnLane j 2) (byteOfWord w 2)) (e.lin r (columnLane j 3) (byteOfWord w 3))

/-- The constants a of a column as one word (R163). -/
def Encoding.offWord (e : Encoding) (r : Nat) (j : Lane) : Word :=
  word4 (e.off r (columnLane j 0)) (e.off r (columnLane j 1)) (e.off r (columnLane j 2)) (e.off r (columnLane j 3))

/-- What R163 asks of the encodings: L is linear over XOR and invertible, B is a bijection (a left inverse on the finite set of bytes), and the four
words K of a column XOR to the column's constants. -/
structure Encoding.Valid (e : Encoding) : Prop where
  linear : ∀ r j x y, 1 ≤ r → r ≤ 9 → e.lin r j (x ^^^ y) = e.lin r j x ^^^ e.lin r j y
  linInverse : ∀ r j x, 1 ≤ r → r ≤ 9 → e.linInv r j (e.lin r j x) = x
  edgeInverse : ∀ r j x, 1 ≤ r → r ≤ 9 → e.edgeInv r j (e.edge r j x) = x
  maskSum : ∀ r (j : Lane), 1 ≤ r → r ≤ 9 →
    e.mask r (columnLane j 0) ^^^ e.mask r (columnLane j 1) ^^^ e.mask r (columnLane j 2) ^^^ e.mask r (columnLane j 3) = e.offWord r j

/-- T' of R163, built from T. -/
def encodedImage (e : Encoding) (t : Image) (p : Wiring) : Image :=
  artifact (dirb t)
    { sub := fun r j x =>
        if r ≤ 9 then e.edge r j (subEntry t r j.val (e.affineInv (r - 1) p[j] x))
        else subEntry t 10 j.val (e.affineInv 9 p[j] x)
      mc := fun r j y => e.linWord r j (mcEntry t r j.val (e.edgeInv r j y)) ^^^ e.mask r j }

end Sys2Proof.Machine
end

