-- ==== Sys2Proof/Machine/HostProgram.lean ====
section
/-! DEFINITION. The host notation and the pseudo-operations, each its exact expansion into host operations (spec/30_encoding.md R120, R121). -/

namespace Sys2Proof.Machine.HostProgram

/-- `WR32 addr, value` (R120). -/
def wr32 (a : HostAddr) (v : Word) : HostOp := .write a 32 v

/-- `RD32 addr` (R120). -/
def rd32 (a : HostAddr) : HostOp := .read a 32

/-- `EVAL` (R121). -/
def evalCmd : List HostOp := [wr32 0x00004#19 0x00000001#32]

/-- `PAD m`, m = 0..15 (R121). -/
def padCmd (m : Nat) : List HostOp := [wr32 0x00004#19 (BitVec.ofNat 32 (16 * m + 2))]

/-- `UNPAD` (R121). -/
def unpadCmd : List HostOp := [wr32 0x00004#19 0x00000003#32]

/-- `CHECK` (R121). -/
def checkCmd : List HostOp := [wr32 0x00004#19 0x00000004#32]

/-- `WAIT` (R121): BUSY = 0 and DONE = 1. -/
def wait : List HostOp := [.poll 0x00008#19 0x00000003#32 0x00000002#32]

/-- `CLRST` (R121): clear DONE and WIGN. -/
def clrst : List HostOp := [wr32 0x00008#19 0x01000002#32]

/-- `LDBLK b0..b15` (R121). -/
def ldblk (b : Block) : List HostOp :=
  [wr32 0x00010#19 (blockWord b 0), wr32 0x00014#19 (blockWord b 1), wr32 0x00018#19 (blockWord b 2), wr32 0x0001C#19 (blockWord b 3)]

/-- `RDBLK` (R121): its four reads; what it gives the host is `rdblkResult`. -/
def rdblk : List HostOp := [rd32 0x00020#19, rd32 0x00024#19, rd32 0x00028#19, rd32 0x0002C#19]

/-- The block `B` that `RDBLK -> B` assembles from the four words read, `B[4i+b] = w_i[8b+7:8b]` (R121). -/
def rdblkBlock (w : Vector Word 4) : Block :=
  Vector.ofFn fun k : Lane => byteOfWord w[k.val / 4] (k.val % 4)

/-- The block that `RDBLK -> B` assembles from its four responses, newest first as `State.responses` keeps them (log entry 7); none if one of them
carries no data (R121). -/
def rdblkResult (rs : List Response) : Option Block :=
  match rs with
  | ⟨_, some w3⟩ :: ⟨_, some w2⟩ :: ⟨_, some w1⟩ :: ⟨_, some w0⟩ :: _ => some (rdblkBlock #v[w0, w1, w2, w3])
  | _ => none

/-- The write of word `i` of an artifact: `WR32 0x40000 + 4i, w_i` (R121). -/
def loadWord (img : Image) (i : Nat) : HostOp := wr32 (BitVec.ofNat 19 (0x40000 + 4 * i)) (memRead4 img (4 * i))

/-- `LOADTS img` (R121): words 0..47111 in order. -/
def loadTs (img : Image) : List HostOp := (List.range 47112).map (loadWord img)

/-- `LOADTS_SAFE img` (R121): header word 0 invalidated first and written last. -/
def loadTsSafe (img : Image) : List HostOp :=
  wr32 0x40000#19 0x00000000#32 :: ((List.range 47111).map fun i => loadWord img (i + 1)) ++ [loadWord img 0]

end Sys2Proof.Machine.HostProgram
end

