-- ==== Sys2Proof/Machine/Stream.lean ====
section
/-! DEFINITION. The source's stream codec, `pad(data)` and `unpad(data)`, that the block form is measured against (spec/41_padding.md, opening quotation, R198, R199). No step of the machine uses this file. -/

namespace Sys2Proof.Machine

/-- `pad(data)`: appends `n` bytes of value `n`, `n = 16 - (len(data) mod 16)`. -/
def padStream (data : List Byte) : List Byte :=
  data ++ List.replicate (16 - data.length % 16) (BitVec.ofNat 8 (16 - data.length % 16))

/-- `unpad(data)`: reads the last byte `n`; fails unless `1 ≤ n ≤ 16` and the last `n` bytes all equal `n`; drops them. The source gives no outcome for an empty
stream, which has no last byte, nor for one shorter than `n`; that both fail here is the model's choice (DESIGN CHOICE, log entry 19). -/
def unpadStream (data : List Byte) : Option (List Byte) :=
  match data.getLast? with
  | none => none
  | some n =>
    if 1 ≤ n.toNat ∧ n.toNat ≤ 16 ∧ n.toNat ≤ data.length ∧ (∀ b ∈ data.drop (data.length - n.toNat), b = n) then
      some (data.take (data.length - n.toNat))
    else none

end Sys2Proof.Machine
end

