-- ==== Sys2Proof/Machine/Trace.lean ====
section
/-! DEFINITION. The operations of one evaluation of WB, in order, with the offsets it reads (spec/40_cipher.md R151, spec/20_memory.md R96). A view of the
network beside `wb`, used in statements only (log entry 18). -/

namespace Sys2Proof.Machine

/-- One operation of the network (R151). -/
inductive NetOp where
  /-- The wiring of a round. -/
  | wiring
  /-- A SUB read of one byte at an offset. -/
  | subRead (off : Nat)
  /-- An MC read of four bytes at an offset. -/
  | mcRead (off : Nat)
  /-- The XOR of the four MC entries of one column. -/
  | xorColumn
deriving DecidableEq, Repr

/-- The operation without its offset: what R151 says never varies. -/
inductive NetKind where
  | wiring
  | sub
  | mc
  | xor
deriving DecidableEq, Repr

def NetOp.kind (o : NetOp) : NetKind :=
  match o with
  | .wiring => .wiring
  | .subRead _ => .sub
  | .mcRead _ => .mc
  | .xorColumn => .xor

/-- The TMEM offsets an operation reads. -/
def NetOp.offsets (o : NetOp) : List Nat :=
  match o with
  | .wiring => []
  | .subRead off => [off]
  | .mcRead off => [off, off + 1, off + 2, off + 3]
  | .xorColumn => []

/-- The wiring and the 16 SUB reads of round `r` on the round state `s`. -/
def subOps (p : Wiring) (r : Nat) (s : Block) : List NetOp :=
  .wiring :: (List.finRange 16).map fun j : Lane => .subRead (subOff r j.val + (wire p s)[j].toNat)

/-- The four MC reads of column `c` and their XOR. -/
def columnOps (r : Nat) (u : Block) (c : Fin 4) : List NetOp :=
  [.mcRead (mcOff r (4 * c.val) + 4 * u[4 * c.val].toNat), .mcRead (mcOff r (4 * c.val + 1) + 4 * u[4 * c.val + 1].toNat),
    .mcRead (mcOff r (4 * c.val + 2) + 4 * u[4 * c.val + 2].toNat), .mcRead (mcOff r (4 * c.val + 3) + 4 * u[4 * c.val + 3].toNat), .xorColumn]

/-- The operations of one of the rounds 1..9. -/
def roundOps (t : Image) (p : Wiring) (r : Nat) (s : Block) : List NetOp :=
  subOps p r s ++ (List.finRange 4).flatMap (columnOps r (subLayer t r (wire p s)))

/-- The operations of `WB(t, p, b)` in order: rounds 1..9, then the wiring and SUB reads of round 10 (R148, R151). -/
def netOps (t : Image) (p : Wiring) (b : Block) : List NetOp :=
  ((List.range 9).flatMap fun n => roundOps t p (n + 1) (netRounds t p n b)) ++ subOps p 10 (netRounds t p 9 b)

end Sys2Proof.Machine
end

