-- ==== Sys2Proof/Safety.lean ====
section
/-! DEFINITION. What every step keeps, in the terms the statements use (spec/10_state.md R38..R46, spec/60_exceptions.md R221). -/

namespace Sys2Proof.Machine

/-- ERR and ERRCODE agree (R42, R221): code 0 without an error, a code 1..3 with one. -/
def Status.ErrOk (st : Status) : Prop :=
  if st.err then st.errcode = 1#3 ∨ st.errcode = 2#3 ∨ st.errcode = 3#3 else st.errcode = 0#3

/-- While a command is in flight, DONE and ERR are 0 (R113, R225). -/
def Status.BusyOk (st : Status) : Prop := st.busy = true → st.done = false ∧ st.err = false

/-- TSV tells the truth (R38, R45, R46): the header in TMEM passes the check, and DIR is its direction. -/
def State.TsvOk (s : State) : Prop :=
  s.status.tsv = true → hdrOK s.image = true ∧ s.status.dir = (dirb s.image).getLsbD 0

/-- OUTLEN is at most 16, and the bytes of DOUT from OUTLEN on are 0x00 (R43, R196, U13). -/
def State.OutOk (s : State) : Prop :=
  s.status.outlen.toNat ≤ 16 ∧ ∀ k : Lane, s.status.outlen.toNat ≤ k.val → s.dout[k] = 0#8

/-- The invariant of the block. -/
structure State.Inv (s : State) : Prop where
  mem : s.tmem.wf
  errOk : s.status.ErrOk
  busyOk : s.status.BusyOk
  tsvOk : s.TsvOk
  outOk : s.OutOk

end Sys2Proof.Machine
end

