-- ==== Sys2Proof/Certificates/Slice0/Obligations.lean ====
section
/-! DEFINITION. The statements for the provers, one `def Obligations.<Name> : Prop` each, with the rules of spec/ they come from. -/

open Sys2Proof Sys2Proof.Machine

/-! ### Words the statements use -/

/-- The words of R119: EVAL, UNPAD, CHECK, and PAD for m = 0..15. -/
def Sys2Proof.Machine.legalWords : List Word :=
  [0x00000001#32, 0x00000003#32, 0x00000004#32] ++ (List.range 16).map fun m => BitVec.ofNat 32 (16 * m + 2)

/-- The classes (a) to (d) of R118, read off the bits of the word. -/
def Sys2Proof.Machine.IllegalWord (v : Word) : Prop :=
  v.extractLsb' 9 23 ≠ 0#23 ∨
  (v.extractLsb' 0 4 = 0x0#4 ∨ 5 ≤ (v.extractLsb' 0 4).toNat) ∨
  ((v.extractLsb' 0 4 = 0x1#4 ∨ v.extractLsb' 0 4 = 0x3#4 ∨ v.extractLsb' 0 4 = 0x4#4) ∧ v.extractLsb' 4 5 ≠ 0#5) ∨
  (v.extractLsb' 0 4 = 0x2#4 ∧ 16 ≤ (v.extractLsb' 4 5).toNat)

/-- A run of `n` steps through states that all have a command in flight. -/
def Sys2Proof.Machine.StaysInFlight (n : Nat) (s u : State) : Prop :=
  match n with
  | 0 => u = s ∧ s.status.busy = true
  | n + 1 => s.status.busy = true ∧ ∃ m, step s = .next m ∧ StaysInFlight n m u

/-! ### Command words (spec/30_encoding.md) -/

/-- Decoding and encoding agree in both directions (R111, R112, R114). -/
def Obligations.DecodeAndEncodeAgree : Prop :=
  (∀ i : Instr, i.WellFormed → decode (encode i) = .ok i) ∧
  ∀ (v : Word) (i : Instr), decode v = .ok i → i.WellFormed ∧ encode i = v

/-- R119: the legal command words are exactly the 19 listed, each the command it is listed for. -/
def Obligations.LegalWordsAreExactlyNineteen : Prop :=
  decode 0x00000001#32 = .ok .eval ∧ decode 0x00000003#32 = .ok .unpad ∧ decode 0x00000004#32 = .ok .check ∧
  (∀ m : Nat, m ≤ 15 → decode (BitVec.ofNat 32 (16 * m + 2)) = .ok (.pad (BitVec.ofNat 5 m))) ∧
  legalWords.length = 19 ∧ legalWords.Nodup ∧
  ∀ v : Word, (∃ i, decode v = .ok i) ↔ v ∈ legalWords

/-- R118: a word is illegal exactly when it falls under (a) to (d), and its completion is IllegalCommand, code 3, changing no state but STATUS
BUSY, DONE, ERR and ERRCODE. -/
def Obligations.IllegalWordsCompleteWithIllegalCommand : Prop :=
  (∀ v : Word, IllegalWord v ↔ ¬ ∃ i, decode v = .ok i) ∧
  ∀ s : State, s.status.busy = true → IllegalWord s.lcmd →
    engineTurn s = .next { s with status := { s.status with busy := false, done := true, err := true, errcode := 3#3 } }

/-- R122: the encoding examples. -/
def Obligations.EncodingExamplesDecode : Prop :=
  decode 0x00000001#32 = .ok .eval ∧ decode 0x00000052#32 = .ok (.pad 5#5) ∧ decode 0x00000002#32 = .ok (.pad 0#5) ∧
  decode 0x000000F2#32 = .ok (.pad 15#5) ∧ encode .eval = 0x00000001#32 ∧ encode (.pad 5#5) = 0x00000052#32 ∧
  encode (.pad 0#5) = 0x00000002#32 ∧ encode (.pad 15#5) = 0x000000F2#32 ∧
  (∀ v ∈ [0x00000102#32, 0x00000011#32, 0x00000000#32], ¬ ∃ i, decode v = .ok i)

/-- The command pseudo-operations of R121 write, to CMD, the word that encodes the command they name. -/
def Obligations.CommandPseudoOpsWriteTheEncodedWord : Prop :=
  HostProgram.evalCmd = [.write 0x00004#19 32 (encode .eval)] ∧
  HostProgram.unpadCmd = [.write 0x00004#19 32 (encode .unpad)] ∧
  HostProgram.checkCmd = [.write 0x00004#19 32 (encode .check)] ∧
  ∀ m : Nat, m ≤ 15 → HostProgram.padCmd m = [.write 0x00004#19 32 (encode (.pad (BitVec.ofNat 5 m)))]

/-! ### Steps (spec/20_memory.md R90, spec/60_exceptions.md R225) -/

/-- A step runs the decoded command: the engine's step is its completion with the turn spent and nothing else around it, and with a command in flight that
completion is `exec` of the decoded LCMD (R114, R225). -/
def Obligations.StepRunsTheDecodedCommand : Prop :=
  (∀ s : State, s.turn = .engine → step s = engineTurn { s with turns := s.turns.tail }) ∧
  ∀ (s : State) (i : Instr), s.turn = .engine → s.status.busy = true → decode s.lcmd = .ok i →
    step s = exec i { s with turns := s.turns.tail }

/-- The completion is enabled exactly when BUSY = 1 (R225): the engine's turn ends a command in flight, whatever its word, leaving BUSY = 0 and DONE = 1
(with or without an error, R40); with no command in flight it changes nothing (log entry 5). -/
def Obligations.EngineTurnCompletesExactlyWhenBusy : Prop :=
  ∀ s : State, s.turn = .engine →
    (s.status.busy = true → ∃ t, step s = .next t ∧ t.status.busy = false ∧ t.status.done = true) ∧
    (s.status.busy = false → step s = .next { s with turns := s.turns.tail })

/-- Whose turn it is, and what a host's turn does with an access: the model's choice of how an interleaving is written and its responses kept (log entries 4, 7).
The next of the list; after its end the engine if a command is in flight, else the host. A host's turn takes the first access of its list (R77, R90) and records
the response. -/
def Obligations.TurnFollowsTheInterleaving : Prop :=
  (∀ s : State,
    (∀ t ts, s.turns = t :: ts → s.turn = t) ∧
    (s.turns = [] → s.status.busy = true → s.turn = .engine) ∧
    (s.turns = [] → s.status.busy = false → s.turn = .host)) ∧
  (∀ (s : State) (a : HostAddr) (bits : Nat) (rest : List HostOp), s.turn = .host → s.host = .read a bits :: rest →
    step s = .next { s with host := rest, turns := s.turns.tail, responses := s.hostRead a bits :: s.responses }) ∧
  ∀ (s : State) (a : HostAddr) (bits : Nat) (v : Word) (rest : List HostOp), s.turn = .host → s.host = .write a bits v :: rest →
    step s = .next { s.hostWrite a bits v with
      host := rest, turns := s.turns.tail, responses := { error := isBusError a bits, data := none } :: s.responses }

/-- The machine stops only on a POLL that can never be satisfied (spec/93_implementation_defined.md U18; log entry 6), and refuses nothing. -/
def Obligations.StepStopsOnlyOnHopelessPoll : Prop :=
  (∀ s r, step s ≠ .refused r) ∧
  ∀ s f, step s = .fault f ↔
    f = .pollNeverEnds ∧ s.turn = .host ∧ s.status.busy = false ∧ Turn.reset ∉ s.turns.tail ∧
      ∃ a mask value rest, s.host = .poll a mask value :: rest ∧
        (if isBusError a 32 then 0#32 else s.readTarget (targetOf a)) &&& mask ≠ value

/-- POLL (R120): one read each turn; when `(data & mask) = value` the host goes on, else, while something may still change, it polls again. -/
def Obligations.PollRepeatsUntilItsCondition : Prop :=
  ∀ (s : State) (a : HostAddr) (mask value : Word) (rest : List HostOp), s.turn = .host → s.host = .poll a mask value :: rest →
    ((s.hostRead a 32).data.getD 0#32 &&& mask = value →
      step s = .next { s with host := rest, turns := s.turns.tail, responses := s.hostRead a 32 :: s.responses }) ∧
    ((s.hostRead a 32).data.getD 0#32 &&& mask ≠ value → s.status.busy = true ∨ Turn.reset ∈ s.turns.tail →
      step s = .next { s with turns := s.turns.tail, responses := s.hostRead a 32 :: s.responses })

/-! ### EVAL and CHECK (spec/40_cipher.md) -/

/-- R153. A header that passes: DOUT is the network's output on DIN, OUTLEN 16, TSV 1, DIR the direction bit, and the completion without error. A header that
fails: TSV 0 and MalformedTableSet, code 1; DOUT, OUTLEN and DIR stay. DIN, TMEM, IRQEN, LCMD and WIGN stay either way. σ, r and their counter are the only
other fields written, with values no rule gives (R55; log entry 2). -/
def Obligations.EvalFollowsItsRule : Prop :=
  (∀ s : State, hdrOK s.image = true →
    ∃ g n c, exec .eval s = .next { s with
      dout := wb s.image (if dirb s.image = 0x00#8 then wiringE else wiringD) s.din
      status := { s.status with
        busy := false, done := true, err := false, errcode := 0#3, outlen := 16#5, tsv := true, dir := (dirb s.image).getLsbD 0 }
      sigma := g, round := n, freeCount := c }) ∧
  ∀ s : State, hdrOK s.image = false →
    ∃ g n c, exec .eval s = .next { s with
      status := { s.status with busy := false, done := true, err := true, errcode := 1#3, tsv := false }
      sigma := g, round := n, freeCount := c }

/-- R158: CHECK on a header that passes, and on one that fails; nothing but STATUS changes. -/
def Obligations.CheckRecordsTheHeader : Prop :=
  (∀ s : State, hdrOK s.image = true →
    exec .check s = .next { s with
      status := { s.status with
        busy := false, done := true, err := false, errcode := 0#3, tsv := true, dir := (dirb s.image).getLsbD 0 } }) ∧
  (∀ s : State, hdrOK s.image = false →
    exec .check s = .next { s with
      status := { s.status with busy := false, done := true, err := true, errcode := 1#3, tsv := false } })

/-- HdrOK (R141, eight words) says that the 32 header bytes are those that R83's table requires, with DIR 0x00 or 0x01. -/
def Obligations.HeaderPredicateIsTheHeaderTable : Prop :=
  ∀ t : Image, hdrOK t = true ↔
    (t 0x00 = 0x57#8 ∧ t 0x01 = 0x42#8 ∧ t 0x02 = 0x41#8 ∧ t 0x03 = 0x45#8 ∧
      t 0x04 = 0x53#8 ∧ t 0x05 = 0x31#8 ∧ t 0x06 = 0x32#8 ∧ t 0x07 = 0x38#8) ∧
    (t 0x08 = 0x00#8 ∨ t 0x08 = 0x01#8) ∧ t 0x09 = 0x0A#8 ∧ t 0x0A = 0x10#8 ∧ t 0x0B = 0x10#8 ∧
    (t 0x0C = 0x00#8 ∧ t 0x0D = 0x01#8) ∧ t 0x0E = 0x01#8 ∧ t 0x0F = 0x04#8 ∧
    (t 0x10 = 0x20#8 ∧ t 0x11 = 0xE0#8 ∧ t 0x12 = 0x02#8 ∧ t 0x13 = 0x00#8) ∧
    ∀ a, 0x14 ≤ a → a ≤ 0x1F → t a = 0x00#8

/-- R86: an artifact's header seen by the host: a read of each of the first eight TMEM words gives the listed word. -/
def Obligations.HeaderReadsAsTheListedHostWords : Prop :=
  ∀ s : State, hdrOK s.image = true →
    s.hostRead 0x40000#19 32 = { error := false, data := some 0x45414257#32 } ∧
    s.hostRead 0x40004#19 32 = { error := false, data := some 0x38323153#32 } ∧
    s.hostRead 0x40008#19 32 = { error := false, data := some (0x10100A00#32 + (dirb s.image).setWidth 32) } ∧
    s.hostRead 0x4000C#19 32 = { error := false, data := some 0x04010100#32 } ∧
    s.hostRead 0x40010#19 32 = { error := false, data := some 0x0002E020#32 } ∧
    s.hostRead 0x40014#19 32 = { error := false, data := some 0x00000000#32 } ∧
    s.hostRead 0x40018#19 32 = { error := false, data := some 0x00000000#32 } ∧
    s.hostRead 0x4001C#19 32 = { error := false, data := some 0x00000000#32 }

/-- R147: the index formulas of the two wirings, that P_D is the inverse of P_E, and that the fourth powers are the identity and the squares equal. -/
def Obligations.WiringsAreShiftRowsAndItsInverse : Prop :=
  (∀ c i : Fin 4, (wiringE[4 * c.val + i.val]).val = 4 * ((c.val + i.val) % 4) + i.val) ∧
  (∀ c i : Fin 4, (wiringD[4 * c.val + i.val]).val = 4 * ((c.val + 4 - i.val) % 4) + i.val) ∧
  (∀ j : Lane, wiringE[wiringD[j]] = j ∧ wiringD[wiringE[j]] = j) ∧
  (∀ b : Block, wire wiringE (wire wiringE (wire wiringE (wire wiringE b))) = b ∧ wire wiringD (wire wiringD (wire wiringD (wire wiringD b))) = b) ∧
  ∀ b : Block, wire wiringE (wire wiringE b) = wire wiringD (wire wiringD b)

/-- R155(b): all-zero tables give an all-zero output, for every input and wiring. -/
def Obligations.ZeroTablesGiveZeroOutput : Prop :=
  ∀ (t : Image) (p : Wiring) (b : Block), (∀ a, 0x20 ≤ a → a < Config.tsBytes → t a = 0x00#8) →
    ∀ j : Lane, (wb t p b)[j] = 0x00#8

/-- R155(c): identity tables give the wiring applied ten times, which is the wiring applied twice, in both directions. -/
def Obligations.IdentityTablesGiveTheWiringSquared : Prop :=
  ∀ (t : Image) (p : Wiring) (b : Block), p = wiringE ∨ p = wiringD →
    (∀ r (j : Lane) x, 1 ≤ r → r ≤ 10 → subEntry t r j.val x = x) →
    (∀ r (j : Lane) y, 1 ≤ r → r ≤ 9 → mcEntry t r j.val y = BitVec.setWidth 32 y <<< (8 * (j.val % 4))) →
    wb t p b = wire p (wire p b)

/-- R149: an MC entry contributes to the four lanes of its own column and to no other: changing MC tables of lane `l` in a round leaves every lane outside
that column as it was. -/
def Obligations.McTableTouchesOnlyItsColumn : Prop :=
  ∀ (t t' : Image) (p : Wiring) (r : Nat) (l : Lane) (s : Block),
    (∀ (j : Lane) x, subEntry t r j.val x = subEntry t' r j.val x) →
    (∀ (j : Lane) y, j ≠ l → mcEntry t r j.val y = mcEntry t' r j.val y) →
    ∀ k : Lane, k.val / 4 ≠ l.val / 4 → (netRound t p r s)[k] = (netRound t' p r s)[k]

/-- R151: every evaluation performs the same sequence of kinds of operation, whatever the input, the wiring and the tables: 160 SUB reads, 144 MC reads,
36 column XORs, 10 wirings. Said of the operation list the model computes beside the network (log entry 18). -/
def Obligations.NetworkOperationsNeverVary : Prop :=
  (∀ (t t' : Image) (p p' : Wiring) (b b' : Block), (netOps t p b).map NetOp.kind = (netOps t' p' b').map NetOp.kind) ∧
  ∀ (t : Image) (p : Wiring) (b : Block),
    ((netOps t p b).map NetOp.kind).count .sub = 160 ∧ ((netOps t p b).map NetOp.kind).count .mc = 144 ∧
    ((netOps t p b).map NetOp.kind).count .xor = 36 ∧ ((netOps t p b).map NetOp.kind).count .wiring = 10

/-- R96, R53: the offsets an evaluation reads lie in the artifact's tables, below TS_BYTES, and the output depends on no other byte of the image. -/
def Obligations.NetworkReadsOnlyTheArtifact : Prop :=
  (∀ (t : Image) (p : Wiring) (b : Block), ∀ a ∈ (netOps t p b).flatMap NetOp.offsets, 0x20 ≤ a ∧ a < Config.tsBytes) ∧
  ∀ (t t' : Image) (p : Wiring) (b : Block), (∀ a ∈ (netOps t p b).flatMap NetOp.offsets, t a = t' a) → wb t p b = wb t' p b

/-- R166, R145, R56: two machines with the same DIN and the same TMEM below TS_BYTES end a command alike, whatever else differs: the same error, and without an
error the same DOUT, OUTLEN (CHECK writes neither), and for EVAL and CHECK the same TSV and DIR. -/
def Obligations.ResultsDependOnlyOnDinAndTables : Prop :=
  ∀ (i : Instr) (s s' : State), s.din = s'.din → (∀ a, a < Config.tsBytes → s.image a = s'.image a) →
    ∃ t t', exec i s = .next t ∧ exec i s' = .next t' ∧
      t.status.err = t'.status.err ∧ t.status.errcode = t'.status.errcode ∧
      (t.status.err = false → i ≠ .check → t.dout = t'.dout ∧ t.status.outlen = t'.status.outlen) ∧
      (i = .eval ∨ i = .check → t.status.tsv = t'.status.tsv ∧ (t.status.err = false → t.status.dir = t'.status.dir))

/-! ### The host's contract (spec/40_cipher.md R160..R163). AES is FIPS-197's, from general knowledge (log entry 12). -/

/-- R162: the reference table-set of every key conforms, in both directions. -/
def Obligations.ReferenceTableSetsConform : Prop :=
  ∀ (d : Direction) (k : Block), Conforms (refImage d k) k d

/-- R161: conforming table-sets of one key undo each other. -/
def Obligations.ConformingTableSetsAreMutualInverses : Prop :=
  ∀ (te td : Image) (k : Block), Conforms te k .encrypt → Conforms td k .decrypt →
    ∀ b : Block, wb td wiringD (wb te wiringE b) = b

/-- R163: a conforming table-set carries the encodings: T' conforms for the same key and direction. -/
def Obligations.EncodedTableSetConforms : Prop :=
  ∀ (e : Encoding) (t : Image) (k : Block) (d : Direction), e.Valid → Conforms t k d → Conforms (encodedImage e t d.wiring) k d

/-- R160 on the machine: EVAL with a conforming table-set in TMEM completes with DOUT the AES function of DIN, in the table-set's direction. -/
def Obligations.EvalWithConformingTableSetIsAes : Prop :=
  ∀ (s : State) (k : Block) (d : Direction), Conforms s.image k d →
    ∃ t, exec .eval s = .next t ∧ t.dout = d.aes k s.din ∧ t.status.err = false ∧ t.status.outlen = 16#5 ∧ t.status.tsv = true ∧
      t.status.dir = decide (d = .decrypt)

/-- R156: the worked example. TMEM holds the reference encryption table-set of key 000102…0f, DIN is 00112233…ff. -/
def Obligations.WorkedExampleEvaluates : Prop :=
  ∀ s : State,
    (∀ a, a < Config.tsBytes →
      s.image a = refImage .encrypt #v[0x00, 0x01, 0x02, 0x03, 0x04, 0x05, 0x06, 0x07, 0x08, 0x09, 0x0a, 0x0b, 0x0c, 0x0d, 0x0e, 0x0f] a) →
    s.din = #v[0x00, 0x11, 0x22, 0x33, 0x44, 0x55, 0x66, 0x77, 0x88, 0x99, 0xaa, 0xbb, 0xcc, 0xdd, 0xee, 0xff] →
    ∃ t, exec .eval s = .next t ∧
      t.dout = #v[0x69, 0xc4, 0xe0, 0xd8, 0x6a, 0x7b, 0x04, 0x30, 0xd8, 0xcd, 0xb7, 0x80, 0x70, 0xb4, 0xc5, 0x5a] ∧
      t.status.outlen = 16#5 ∧ t.status.tsv = true ∧ t.status.dir = false ∧ t.status.err = false

/-! ### PAD and UNPAD (spec/41_padding.md) -/

/-- R192: PAD(m), m = 0..15, byte by byte, with OUTLEN 16 and the completion without error; nothing else changes. -/
def Obligations.PadBuildsTheFinalBlock : Prop :=
  ∀ (s : State) (len : BitVec 5), len.toNat ≤ 15 →
    ∃ o : Block, (∀ k : Lane, o[k] = if k.val < len.toNat then s.din[k] else BitVec.ofNat 8 (16 - len.toNat)) ∧
      exec (.pad len) s = .next { s with
        dout := o
        status := { s.status with busy := false, done := true, err := false, errcode := 0#3, outlen := 16#5 } }

/-- R118(d), R193: PAD with LEN 16..31 is IllegalCommand, and changes nothing but STATUS BUSY, DONE, ERR, ERRCODE. -/
def Obligations.PadLengthAbove15IsIllegal : Prop :=
  ∀ (s : State) (len : BitVec 5), 16 ≤ len.toNat →
    exec (.pad len) s = .next { s with
      status := { s.status with busy := false, done := true, err := true, errcode := 3#3 } }

/-- R195, R196, with n the last byte of DIN. Valid padding: data bytes kept, the rest zero, OUTLEN = 16 - n. Invalid padding (n = 0, n above 16, or a byte of the
last n that differs from n): InvalidPadding, code 2; DOUT and OUTLEN stay. Nothing else changes. -/
def Obligations.UnpadFollowsItsRule : Prop :=
  (∀ (s : State) (n : Nat), s.din[15].toNat = n → 1 ≤ n → n ≤ 16 → (∀ k : Lane, 16 - n ≤ k.val → s.din[k] = s.din[15]) →
    ∃ o : Block, (∀ k : Lane, o[k] = if k.val < 16 - n then s.din[k] else 0x00#8) ∧
      exec .unpad s = .next { s with
        dout := o
        status := { s.status with busy := false, done := true, err := false, errcode := 0#3, outlen := BitVec.ofNat 5 (16 - n) } }) ∧
  ∀ s : State, (s.din[15].toNat = 0 ∨ 16 < s.din[15].toNat ∨ ∃ k : Lane, 16 - s.din[15].toNat ≤ k.val ∧ s.din[k] ≠ s.din[15]) →
    exec .unpad s = .next { s with
      status := { s.status with busy := false, done := true, err := true, errcode := 2#3 } }

/-- R199, first point (and V-P18): UNPAD of PAD's output succeeds and gives the chunk back, followed by zeros. -/
def Obligations.UnpadInvertsPad : Prop :=
  ∀ (s u : State) (len : BitVec 5), len.toNat ≤ 15 →
    ∃ t, exec (.pad len) s = .next t ∧
      (u.din = t.dout →
        ∃ w, exec .unpad u = .next w ∧ w.status.err = false ∧ w.status.outlen = len ∧
          ∀ k : Lane, w.dout[k] = if k.val < len.toNat then s.din[k] else 0x00#8)

/-- R199, third point: changing the last byte of PAD's output to 0x00 or to a value above 0x10 makes UNPAD fail with InvalidPadding, code 2. -/
def Obligations.TamperedPaddingIsInvalid : Prop :=
  ∀ (s u : State) (len : BitVec 5) (v : Byte), len.toNat ≤ 15 → v = 0x00#8 ∨ 0x10 < v.toNat →
    ∃ t, exec (.pad len) s = .next t ∧
      (u.din = t.dout.set 15 v →
        ∃ w, exec .unpad u = .next w ∧ w.status.err = true ∧ w.status.errcode = 2#3 ∧ w.dout = u.dout ∧ w.status.outlen = u.status.outlen)

/-- R198, pad: the stream codec's result is the full chunks unchanged, followed by the DOUT of PAD(m) with the last m bytes of the data in DIN. -/
def Obligations.StreamPadIsBlockPad : Prop :=
  ∀ (data : List Byte) (s : State),
    (∀ k : Lane, k.val < data.length % 16 → data[16 * (data.length / 16) + k.val]? = some s.din[k]) →
    ∃ t, exec (.pad (BitVec.ofNat 5 (data.length % 16))) s = .next t ∧ t.status.err = false ∧
      padStream data = data.take (16 * (data.length / 16)) ++ t.dout.toList

/-- R198, unpad: on a stream whose length is a positive multiple of 16, with its last 16 bytes in DIN, the stream codec succeeds exactly when UNPAD does, with
the bytes before them followed by the first OUTLEN bytes of DOUT. -/
def Obligations.StreamUnpadIsBlockUnpad : Prop :=
  ∀ (data : List Byte) (s : State), 0 < data.length → data.length % 16 = 0 → data.drop (data.length - 16) = s.din.toList →
    ∃ t, exec .unpad s = .next t ∧
      (t.status.err = true ↔ unpadStream data = none) ∧
      (t.status.err = false →
        unpadStream data = some (data.take (data.length - 16) ++ t.dout.toList.take t.status.outlen.toNat))

/-! ### Completion, errors and frames (spec/60_exceptions.md) -/

/-- What every command leaves alone, and what each one may write: every command completes; DIN, IRQEN, LCMD, WIGN and every byte of TMEM stay; the draw and the
host's side stay; only EVAL touches σ, r and their counter; PAD and UNPAD leave TSV and DIR; CHECK leaves DOUT and OUTLEN (R117, R152, R157, R190, R265). That LCMD outlives the
command is the model's choice (log entry 20). -/
def Obligations.CommandFrames : Prop :=
  ∀ (i : Instr) (s : State),
    ∃ t, exec i s = .next t ∧
      t.din = s.din ∧ t.ie = s.ie ∧ t.lcmd = s.lcmd ∧ t.status.wign = s.status.wign ∧
      (∀ a, t.image a = s.image a) ∧ t.era = s.era ∧ t.host = s.host ∧ t.turns = s.turns ∧ t.responses = s.responses ∧
      (i ≠ .eval → t.sigma = s.sigma ∧ t.round = s.round ∧ t.freeCount = s.freeCount) ∧
      (i ≠ .eval ∧ i ≠ .check → t.status.tsv = s.status.tsv ∧ t.status.dir = s.status.dir) ∧
      (i = .check → t.dout = s.dout ∧ t.status.outlen = s.status.outlen)

/-- R226: what an error completion writes: BUSY 0, DONE 1, ERR 1, ERRCODE the code, TSV 0 for code 1 only; not DOUT, OUTLEN, DIR, DIN or TMEM; said of every
completion, of a legal command or an illegal word. -/
def Obligations.ErrorCompletionWritesOnlyStatus : Prop :=
  ∀ s t : State, s.turn = .engine → s.status.busy = true → step s = .next t → t.status.err = true →
    t.status.busy = false ∧ t.status.done = true ∧
    (t.status.errcode = 1#3 ∨ t.status.errcode = 2#3 ∨ t.status.errcode = 3#3) ∧
    t.status.tsv = (if t.status.errcode = 1#3 then false else s.status.tsv) ∧
    t.dout = s.dout ∧ t.status.outlen = s.status.outlen ∧ t.status.dir = s.status.dir ∧ t.din = s.din ∧
    (∀ a, t.image a = s.image a) ∧ t.status.wign = s.status.wign ∧ t.ie = s.ie

/-- R223: which command can end with which ERRCODE: EVAL and CHECK with 0 or 1, PAD with 0, UNPAD with 0 or 2, an illegal word with 3. -/
def Obligations.ErrorCodesPerCommand : Prop :=
  ∀ s : State, s.status.busy = true →
    ∃ t, engineTurn s = .next t ∧
      (decode s.lcmd = .ok .eval ∨ decode s.lcmd = .ok .check → t.status.errcode = 0#3 ∨ t.status.errcode = 1#3) ∧
      (∀ len, decode s.lcmd = .ok (.pad len) → t.status.errcode = 0#3) ∧
      (decode s.lcmd = .ok .unpad → t.status.errcode = 0#3 ∨ t.status.errcode = 2#3) ∧
      ((¬ ∃ i, decode s.lcmd = .ok i) → t.status.errcode = 3#3)

/-- R50, R231: with IE = 1, irq is low after an accept, high after any completion, and low after a STATUS write with bit 1 set; a write to IRQEN gives
`DONE and v[0]` at once. -/
def Obligations.InterruptFollowsCompletionAndAcknowledge : Prop :=
  (∀ (s : State) (v : Word), (s.accept v).irq = false) ∧
  (∀ s t : State, s.turn = .engine → s.status.busy = true → s.ie = true → step s = .next t → t.irq = true) ∧
  (∀ (s : State) (v : Word), v.getLsbD 1 = true → (s.hostWrite 0x00008#19 32 v).irq = false) ∧
  ∀ (s : State) (v : Word), (s.hostWrite 0x0000C#19 32 v).irq = (s.status.done && v.getLsbD 0)

/-! ### Host accesses (spec/10_state.md, spec/20_memory.md) -/

/-- R113: a 32-bit write to CMD with BUSY = 0 is no bus error, and writes LCMD, BUSY, DONE, ERR and ERRCODE, for every word, and nothing else; with BUSY = 1 the
word is not accepted (it only sets WIGN). -/
def Obligations.CmdWriteAccepts : Prop :=
  isBusError 0x00004#19 32 = false ∧
  (∀ (s : State) (v : Word), s.status.busy = false →
    s.hostWrite 0x00004#19 32 v = { s with
      lcmd := v, status := { s.status with busy := true, done := false, err := false, errcode := 0#3 } }) ∧
  ∀ (s : State) (v : Word), s.status.busy = true →
    s.hostWrite 0x00004#19 32 v = { s with status := { s.status with wign := true } }

/-- R48: a write to STATUS is no bus error; it clears DONE for bit 1 and WIGN for bit 24, and does nothing else, whether or not BUSY is set. -/
def Obligations.StatusWriteClearsDoneAndWign : Prop :=
  isBusError 0x00008#19 32 = false ∧
  ∀ (s : State) (v : Word),
    s.hostWrite 0x00008#19 32 v = { s with
      status := { s.status with
        done := s.status.done && !v.getLsbD 1
        wign := s.status.wign && !v.getLsbD 24 } }

/-- R44: while BUSY, a write to CMD, DINW or TMEM sets WIGN and has no other effect; STATUS bit 24 clears WIGN; an accept and a completion keep it; it is 0 after
reset. -/
def Obligations.BusyWritesOnlySetWign : Prop :=
  (∀ (s : State) (a : HostAddr) (v : Word), s.status.busy = true → a.toNat % 4 = 0 →
    (a.toNat = 0x4 ∨ (0x10 ≤ a.toNat ∧ a.toNat ≤ 0x1C) ∨ 0x40000 ≤ a.toNat) →
    s.hostWrite a 32 v = { s with status := { s.status with wign := true } }) ∧
  (∀ (s : State) (v : Word), v.getLsbD 24 = true → (s.hostWrite 0x00008#19 32 v).status.wign = false) ∧
  (∀ (s : State) (v : Word), (s.accept v).status.wign = s.status.wign) ∧
  (∀ s t : State, engineTurn s = .next t → t.status.wign = s.status.wign) ∧
  State.reset.status.wign = false

/-- R49: IRQEN has the one field IE: a write sets it from bit 0, whether or not BUSY is set; a read gives it in bit 0 and zeros above; it is 0 after reset. -/
def Obligations.IrqenHoldsOnlyTheEnable : Prop :=
  (∀ (s : State) (v : Word), s.hostWrite 0x0000C#19 32 v = { s with ie := v.getLsbD 0 }) ∧
  (∀ s : State, s.hostRead 0x0000C#19 32 = { error := false, data := some (if s.ie then 1#32 else 0#32) }) ∧
  State.reset.ie = false

/-- R31, R32, R52, R58: ID and CMD read as constants; writes to ID and to DOUTW are ignored and are no bus errors. -/
def Obligations.ConstantAndReadOnlyRegisters : Prop :=
  ∀ (s : State) (v : Word),
    s.hostRead 0x00000#19 32 = { error := false, data := some 0x57420100#32 } ∧
    s.hostRead 0x00004#19 32 = { error := false, data := some 0x00000000#32 } ∧
    s.hostWrite 0x00000#19 32 v = s ∧ isBusError 0x00000#19 32 = false ∧
    ∀ i : Fin 4, s.hostWrite (BitVec.ofNat 19 (0x20 + 4 * i.val)) 32 v = s ∧ isBusError (BitVec.ofNat 19 (0x20 + 4 * i.val)) 32 = false

/-- R38, R47: the STATUS word a host reads holds each field at its bits, and 0 in the reserved bits. -/
def Obligations.StatusReadsItsFields : Prop :=
  ∀ s : State, ∃ w : Word, s.hostRead 0x00008#19 32 = { error := false, data := some w } ∧
    w.getLsbD 0 = s.status.busy ∧ w.getLsbD 1 = s.status.done ∧ w.getLsbD 2 = s.status.err ∧
    w.extractLsb' 3 3 = s.status.errcode ∧ w.extractLsb' 6 2 = 0#2 ∧ w.extractLsb' 8 5 = s.status.outlen ∧ w.extractLsb' 13 3 = 0#3 ∧
    w.getLsbD 16 = s.status.tsv ∧ w.getLsbD 17 = s.status.dir ∧ w.extractLsb' 18 6 = 0#6 ∧
    w.getLsbD 24 = s.status.wign ∧ w.extractLsb' 25 7 = 0#7

/-- R51, R74: a write to DINW_i with BUSY = 0 replaces bytes 4i..4i+3, byte b by bits 8b+7:8b, and nothing else changes; a read of DINW_i or DOUTW_i holds byte
4i+b in bits 8b+7:8b. -/
def Obligations.BlockWordsAreLittleEndian : Prop :=
  (∀ (s : State) (i : Fin 4) (v : Word), s.status.busy = false →
    ∃ x : Block, s.hostWrite (BitVec.ofNat 19 (0x10 + 4 * i.val)) 32 v = { s with din := x } ∧
      (∀ b : Fin 4, x[4 * i.val + b.val] = v.extractLsb' (8 * b.val) 8) ∧
      ∀ k : Lane, k.val / 4 ≠ i.val → x[k] = s.din[k]) ∧
  ∀ (s : State) (i : Fin 4),
    ∃ v w : Word, s.hostRead (BitVec.ofNat 19 (0x10 + 4 * i.val)) 32 = { error := false, data := some v } ∧
      s.hostRead (BitVec.ofNat 19 (0x20 + 4 * i.val)) 32 = { error := false, data := some w } ∧
      ∀ b : Fin 4, v.extractLsb' (8 * b.val) 8 = s.din[4 * i.val + b.val] ∧ w.extractLsb' (8 * b.val) 8 = s.dout[4 * i.val + b.val]

/-- R80: a 32-bit write to TMEM: with BUSY = 1 only WIGN; with BUSY = 0 byte b of the word to the offset + b, every other byte as before, TSV 0, and nothing
else changes. -/
def Obligations.TmemWriteReplacesFourBytes : Prop :=
  ∀ (s : State) (a : HostAddr) (v : Word), 0x40000 ≤ a.toNat → a.toNat % 4 = 0 →
    (s.status.busy = true → s.hostWrite a 32 v = { s with status := { s.status with wign := true } }) ∧
    (s.status.busy = false →
      ∃ m : Memory, s.hostWrite a 32 v = { s with tmem := m, status := { s.status with tsv := false } } ∧
        (∀ b : Fin 4, (s.hostWrite a 32 v).image (a.toNat - 0x40000 + b.val) = v.extractLsb' (8 * b.val) 8) ∧
        ∀ o, (o < a.toNat - 0x40000 ∨ a.toNat - 0x40000 + 4 ≤ o) → (s.hostWrite a 32 v).image o = s.image o)

/-- R78, R81: a host read, of any address and width, BUSY or not, answers and changes no state of the block; at a TMEM address the answer holds the four bytes,
little-endian. -/
def Obligations.ReadsHaveNoSideEffectAndTmemReadsItsBytes : Prop :=
  ∀ (s : State) (a : HostAddr) (bits : Nat) (rest : List HostOp), s.turn = .host → s.host = .read a bits :: rest →
    ∃ r : Response, step s = .next { s with host := rest, turns := s.turns.tail, responses := r :: s.responses } ∧
      (0x40000 ≤ a.toNat → a.toNat % 4 = 0 → bits = 32 →
        ∃ w : Word, r = { error := false, data := some w } ∧
          ∀ b : Fin 4, w.extractLsb' (8 * b.val) 8 = s.image (a.toNat - 0x40000 + b.val))

/-- R72, R73, R230: an access that is not 32 bits wide, not at a multiple of 4, or at an unmapped address gets a bus error response, BUSY or not; a read gets data 0;
a write changes no state (that no read changes any is ReadsHaveNoSideEffectAndTmemReadsItsBytes). Every other access gets no bus error. -/
def Obligations.BusErrorsHaveNoEffect : Prop :=
  ∀ (s : State) (a : HostAddr) (bits : Nat) (v : Word),
    (bits ≠ 32 ∨ a.toNat % 4 ≠ 0 ∨ (0x00030 ≤ a.toNat ∧ a.toNat ≤ 0x3FFFF) →
      isBusError a bits = true ∧ s.hostRead a bits = { error := true, data := some 0#32 } ∧ s.hostWrite a bits v = s) ∧
    (bits = 32 → a.toNat % 4 = 0 → (a.toNat ≤ 0x0002F ∨ 0x40000 ≤ a.toNat) →
      isBusError a bits = false ∧ (s.hostRead a bits).error = false)

/-! ### Host programs (spec/30_encoding.md R120, R121) -/

/-- LDBLK and RDBLK on an idle block past the end of the interleaving, where no other agent moves in between (the model's choice, log entry 4). The four writes of
LDBLK put the 16 bytes into DIN. The four reads of RDBLK give four responses (log entry 7) from which the host assembles DOUT. Nothing else of the block
changes. -/
def Obligations.LdblkFillsDinAndRdblkGivesDout : Prop :=
  (∀ (s : State) (b : Block) (rest : List HostOp), s.turns = [] → s.status.busy = false → s.host = HostProgram.ldblk b ++ rest →
    ∃ rs, Host.Core.run core 4 s = .next { s with din := b, host := rest, responses := rs ++ s.responses }) ∧
  ∀ (s : State) (rest : List HostOp), s.turns = [] → s.status.busy = false → s.host = HostProgram.rdblk ++ rest →
    ∃ rs, Host.Core.run core 4 s = .next { s with host := rest, responses := rs ++ s.responses } ∧
      rs.length = 4 ∧ HostProgram.rdblkResult rs = some s.dout

/-- Issuing any command word and waiting (WAIT): on an idle block, with the order past the end of the interleaving (log entry 4), the accept, the completion and
the satisfied poll are three steps, after which the host goes on with BUSY = 0 and DONE = 1. That LCMD still holds the word is the model's choice (log entry 20). -/
def Obligations.CommandThenWaitCompletes : Prop :=
  ∀ (s : State) (v : Word) (rest : List HostOp), s.turns = [] → s.status.busy = false →
    s.host = HostProgram.wr32 0x00004#19 v :: (HostProgram.wait ++ rest) →
    ∃ t, Host.Core.run core 3 s = .next t ∧ t.host = rest ∧ t.status.busy = false ∧ t.status.done = true ∧ t.lcmd = v

/-! ### Reset (spec/10_state.md R57, spec/70_reset_and_hazards.md R260) -/

/-- R57: the values after reset of everything the rule gives a value. -/
def Obligations.ResetStateHoldsTheSpecValues : Prop :=
  State.reset.status.toWord = 0x00000000#32 ∧ State.reset.status.busy = false ∧ State.reset.ie = false ∧ State.reset.irq = false ∧
  (∀ k : Lane, State.reset.din[k] = 0x00#8 ∧ State.reset.dout[k] = 0x00#8) ∧
  State.reset.hostRead 0x00000#19 32 = { error := false, data := some 0x57420100#32 } ∧
  ∀ a, State.reset.image a = Config.tmemInit 0 a

/-- R260, R57, R262: reset is one step from any state, BUSY or not: every register at its reset value, the command in flight gone, no DONE, and every byte of
TMEM a new draw. That the host's side of the model stays is the model's choice (log entry 10). -/
def Obligations.ResetStepAbandonsEverything : Prop :=
  ∀ s : State, s.turn = .reset →
    ∃ t, step s = .next t ∧ t.status.toWord = 0x00000000#32 ∧ t.status.busy = false ∧ t.status.done = false ∧ t.ie = false ∧ t.irq = false ∧
      (∀ k : Lane, t.din[k] = 0x00#8 ∧ t.dout[k] = 0x00#8) ∧
      (∀ a, t.image a = Config.tmemInit (s.era + 1) a) ∧
      t.host = s.host ∧ t.turns = s.turns.tail ∧ t.responses = s.responses

/-! ### Whole-machine rules -/

/-- The invariant holds after reset. -/
def Obligations.InvariantHoldsAtReset : Prop := State.reset.Inv

/-- Every step keeps the invariant: the memory's canonical form; ERR and ERRCODE agree (R42, R221); no DONE or ERR while BUSY (R113); TSV is set only over a header that passes, with
DIR its direction (R38, R45, R46); OUTLEN at most 16 with zeros beyond it (R43, R196). -/
def Obligations.EveryStepKeepsTheInvariant : Prop :=
  ∀ s t : State, s.Inv → step s = .next t → t.Inv

/-- R42, whole: ERRCODE is 0 after an accept; after a completion it is the code of the error raised, or 0 without one; no host write but an accept changes it;
and ERR = 0 with ERRCODE other than 0 never comes about. -/
def Obligations.ErrcodeIsZeroWithoutError : Prop :=
  (∀ s t : State, s.status.ErrOk → step s = .next t → t.status.ErrOk) ∧
  (∀ (s : State) (v : Word), (s.accept v).status.errcode = 0#3) ∧
  (∀ (s : State) (e : CmdError), (s.raiseError e).status.errcode = e.code ∧ (s.raiseError e).status.err = true) ∧
  (∀ s t : State, s.turn = .engine → s.status.busy = true → step s = .next t → t.status.err = false → t.status.errcode = 0#3) ∧
  ∀ (s : State) (a : HostAddr) (bits : Nat) (v : Word), s.status.busy = true ∨ a ≠ 0x00004#19 ∨ bits ≠ 32 →
    (s.hostWrite a bits v).status.errcode = s.status.errcode

/-- R39: BUSY is 1 after an accept, 0 after a completion and after reset; it rises only at an accepted CMD write, which latches the word, and falls only at a
completion or at reset. -/
def Obligations.BusyChangesOnlyAtAcceptCompletionReset : Prop :=
  (∀ (s : State) (v : Word), s.status.busy = false → (s.hostWrite 0x00004#19 32 v).status.busy = true) ∧
  (∀ s t : State, s.turn = .engine → step s = .next t → t.status.busy = false) ∧
  (∀ s t : State, s.turn = .reset → step s = .next t → t.status.busy = false) ∧
  ∀ s t : State, step s = .next t →
    (s.status.busy = false → t.status.busy = true →
      s.turn = .host ∧ ∃ v rest, s.host = .write 0x00004#19 32 v :: rest ∧ t.lcmd = v) ∧
    (s.status.busy = true → t.status.busy = false → s.turn = .engine ∨ s.turn = .reset)

/-- R43, R52: DOUT and OUTLEN change only at the successful completion of EVAL, PAD or UNPAD, or at reset. -/
def Obligations.OutputChangesOnlyAtSuccessfulCompletion : Prop :=
  ∀ s t : State, step s = .next t → (t.dout ≠ s.dout ∨ t.status.outlen ≠ s.status.outlen) →
    s.turn = .reset ∨
    (s.turn = .engine ∧ s.status.busy = true ∧ t.status.err = false ∧
      (decode s.lcmd = .ok .eval ∨ (∃ len, decode s.lcmd = .ok (.pad len)) ∨ decode s.lcmd = .ok .unpad))

/-- R51, R53, R79: DIN changes only by a 32-bit host write to a DINW with BUSY = 0, TMEM only by one to a TMEM address with BUSY = 0, or either at reset. -/
def Obligations.InputsChangeOnlyByIdleHostWrites : Prop :=
  ∀ s t : State, step s = .next t → s.turn ≠ .reset →
    (t.din ≠ s.din →
      s.turn = .host ∧ s.status.busy = false ∧
      ∃ a v rest, s.host = .write a 32 v :: rest ∧ a.toNat % 4 = 0 ∧ 0x10 ≤ a.toNat ∧ a.toNat ≤ 0x1C) ∧
    ((∃ o, t.image o ≠ s.image o) →
      s.turn = .host ∧ s.status.busy = false ∧
      ∃ a v rest, s.host = .write a 32 v :: rest ∧ a.toNat % 4 = 0 ∧ 0x40000 ≤ a.toNat)

/-- R45: TSV rises only at the successful completion of CHECK or EVAL, and falls only at their completion with MalformedTableSet, at an accepted TMEM write, or at
reset. -/
def Obligations.TsvChangesOnlyAsListed : Prop :=
  ∀ s t : State, step s = .next t →
    (s.status.tsv = false → t.status.tsv = true →
      s.turn = .engine ∧ s.status.busy = true ∧ t.status.err = false ∧ (decode s.lcmd = .ok .check ∨ decode s.lcmd = .ok .eval)) ∧
    (s.status.tsv = true → t.status.tsv = false →
      s.turn = .reset ∨
      (s.turn = .engine ∧ s.status.busy = true ∧ t.status.errcode = 1#3 ∧ (decode s.lcmd = .ok .check ∨ decode s.lcmd = .ok .eval)) ∨
      (s.turn = .host ∧ s.status.busy = false ∧
        ∃ a v rest, s.host = .write a 32 v :: rest ∧ a.toNat % 4 = 0 ∧ 0x40000 ≤ a.toNat))

/-- R55, R93: however many steps the host takes first, a command in flight ends exactly as it would have ended at once: the same error, DOUT, OUTLEN, TSV and
DIR, from DIN and TMEM as they were. -/
def Obligations.CompletionIsFixedAtAccept : Prop :=
  ∀ (n : Nat) (s u : State), StaysInFlight n s u →
    ∃ t w, engineTurn s = .next t ∧ engineTurn u = .next w ∧
      w.dout = t.dout ∧ w.status.err = t.status.err ∧ w.status.errcode = t.status.errcode ∧ w.status.outlen = t.status.outlen ∧
      w.status.tsv = t.status.tsv ∧ w.status.dir = t.status.dir ∧ w.din = t.din ∧ w.tmem = t.tmem ∧ w.era = t.era

/-- R283's weak fairness as the model has it (log entry 4): from any state with a command in flight, the machine reaches a state without one within the rest of
the interleaving and one more step, and no step on the way stops; unless a reset is to come, it is there by a completion, with DONE set. -/
def Obligations.CommandInFlightEnds : Prop :=
  ∀ s : State, s.status.busy = true →
    ∃ n t, n ≤ s.turns.length + 1 ∧ Host.Core.run core n s = .next t ∧ t.status.busy = false ∧
      (Turn.reset ∉ s.turns → t.status.done = true)
end

