-- ==== Sys2Proof/Laws/Bytes.lean ====
section
/-! SUPPORT. Bytes, words and blocks: what each byte of a combined word and each byte of a computed block is. -/

namespace Sys2Proof.Machine

theorem block_ext {x y : Block} (h : ∀ (k : Nat) (hk : k < 16), x[k] = y[k]) : x = y := Vector.ext h

theorem byte_ext {a b : Byte} (h : ∀ i : Nat, i < 8 → a.getLsbD i = b.getLsbD i) : a = b := BitVec.eq_of_getLsbD_eq fun i hi => h i hi

@[simp] theorem byteOfWord_getLsbD (w : Word) (i n : Nat) : (byteOfWord w i).getLsbD n = (decide (n < 8) && w.getLsbD (8 * i + n)) := by
  simp [byteOfWord, BitVec.getLsbD_extractLsb']

theorem word4_getLsbD (a b c d : Byte) (n : Nat) :
    (word4 a b c d).getLsbD n =
      if n < 8 then a.getLsbD n else if n < 16 then b.getLsbD (n - 8) else if n < 24 then c.getLsbD (n - 16) else d.getLsbD (n - 24) := by
  have h : (word4 a b c d).getLsbD n = (d ++ c ++ b ++ a).getLsbD n := rfl
  rw [h, BitVec.getLsbD_append]
  split_ifs with h1
  · rfl
  all_goals
    rw [BitVec.getLsbD_append]
    split_ifs with h4
    all_goals first
      | rfl
      | omega
      | (rw [BitVec.getLsbD_append]
         split_ifs with h5
         all_goals first
           | omega
           | rw [show n - 8 - 8 - 8 = n - 24 by omega]
           | rw [show n - 8 - 8 = n - 16 by omega])

@[simp] theorem byteOfWord_word4_zero (a b c d : Byte) : byteOfWord (word4 a b c d) 0 = a := by
  refine byte_ext fun i hi => ?_
  rw [byteOfWord_getLsbD, word4_getLsbD]
  simp [hi]

@[simp] theorem byteOfWord_word4_one (a b c d : Byte) : byteOfWord (word4 a b c d) 1 = b := by
  refine byte_ext fun i hi => ?_
  rw [byteOfWord_getLsbD, word4_getLsbD, if_neg (by omega), if_pos (by omega), show 8 * 1 + i - 8 = i by omega]
  simp [hi]

@[simp] theorem byteOfWord_word4_two (a b c d : Byte) : byteOfWord (word4 a b c d) 2 = c := by
  refine byte_ext fun i hi => ?_
  rw [byteOfWord_getLsbD, word4_getLsbD, if_neg (by omega), if_neg (by omega), if_pos (by omega), show 8 * 2 + i - 16 = i by omega]
  simp [hi]

@[simp] theorem byteOfWord_word4_three (a b c d : Byte) : byteOfWord (word4 a b c d) 3 = d := by
  refine byte_ext fun i hi => ?_
  rw [byteOfWord_getLsbD, word4_getLsbD, if_neg (by omega), if_neg (by omega), if_neg (by omega), show 8 * 3 + i - 24 = i by omega]
  simp [hi]

theorem word4_inj {a b c d a' b' c' d' : Byte} : word4 a b c d = word4 a' b' c' d' ↔ a = a' ∧ b = b' ∧ c = c' ∧ d = d' := by
  refine ⟨fun h => ⟨?_, ?_, ?_, ?_⟩, fun ⟨h1, h2, h3, h4⟩ => by rw [h1, h2, h3, h4]⟩
  · simpa using congrArg (byteOfWord · 0) h
  · simpa using congrArg (byteOfWord · 1) h
  · simpa using congrArg (byteOfWord · 2) h
  · simpa using congrArg (byteOfWord · 3) h

theorem byteOfWord_xor (v w : Word) (i : Nat) : byteOfWord (v ^^^ w) i = byteOfWord v i ^^^ byteOfWord w i := by
  refine byte_ext fun n hn => ?_
  rw [BitVec.getLsbD_xor, byteOfWord_getLsbD, byteOfWord_getLsbD, byteOfWord_getLsbD, BitVec.getLsbD_xor]
  simp [hn]

/-- A word is its four bytes. -/
theorem word4_byteOfWord (w : Word) : word4 (byteOfWord w 0) (byteOfWord w 1) (byteOfWord w 2) (byteOfWord w 3) = w := by
  refine BitVec.eq_of_getLsbD_eq fun n hn => ?_
  rw [word4_getLsbD]
  split_ifs with h1 h2 h3
  · rw [byteOfWord_getLsbD, show 8 * 0 + n = n by omega]; simp [h1]
  · rw [byteOfWord_getLsbD, show 8 * 1 + (n - 8) = n by omega]; simp [show n - 8 < 8 by omega]
  · rw [byteOfWord_getLsbD, show 8 * 2 + (n - 16) = n by omega]; simp [show n - 16 < 8 by omega]
  · rw [byteOfWord_getLsbD, show 8 * 3 + (n - 24) = n by omega]; simp [show n - 24 < 8 by omega]

/-- A byte shifted into byte `k` of a word. -/
theorem byteOfWord_shift (y : Byte) {i k : Nat} (hi : i < 4) (hk : k < 4) :
    byteOfWord (BitVec.setWidth 32 y <<< (8 * k)) i = if i = k then y else 0#8 := by
  refine byte_ext fun n hn => ?_
  rw [byteOfWord_getLsbD, BitVec.getLsbD_shiftLeft, BitVec.getLsbD_setWidth]
  by_cases h : i = k
  · subst h
    simp [hn, show 8 * i + n < 32 by omega, show n < 32 by omega]
  · rw [if_neg h]
    by_cases h2 : 8 * i + n < 8 * k
    · simp [h2]
    · simp [BitVec.getLsbD_of_ge y (8 * i + n - 8 * k) (by omega)]

theorem wire_getElem (p : Wiring) (s : Block) (k : Nat) (h : k < 16) : (wire p s)[k] = s[(p[k]).val] := by
  simp [wire]

theorem subLayer_getElem (t : Image) (r : Nat) (x : Block) (k : Nat) (h : k < 16) : (subLayer t r x)[k] = subEntry t r k x[k] := by
  simp [subLayer]

theorem mcLayer_getElem (t : Image) (r : Nat) (u : Block) (k : Nat) (h : k < 16) :
    (mcLayer t r u)[k] = byteOfWord (mcColumn t r u ⟨k / 4, by omega⟩) (k % 4) := by
  simp [mcLayer]

theorem setBlockWord_getElem (x : Block) (i : Fin 4) (w : Word) (k : Nat) (h : k < 16) :
    (setBlockWord x i w)[k] = if k / 4 = i.val then byteOfWord w (k % 4) else x[k] := by
  simp [setBlockWord]

theorem padBlock_getElem (x : Block) (m k : Nat) (h : k < 16) : (padBlock x m)[k] = if k < m then x[k] else BitVec.ofNat 8 (16 - m) := by
  simp [padBlock]

theorem unpadBlock_getElem (x : Block) (k : Nat) (h : k < 16) : (unpadBlock x)[k] = if k < 16 - x[15].toNat then x[k] else 0#8 := by
  simp [unpadBlock]

theorem zeroBlock_getElem (k : Nat) (h : k < 16) : zeroBlock[k] = 0#8 := by
  revert k; decide

namespace Aes

theorem subBytes_getElem (s : Block) (k : Nat) (h : k < 16) : (subBytes s)[k] = sbox s[k] := by
  simp [subBytes]

theorem invSubBytes_getElem (s : Block) (k : Nat) (h : k < 16) : (invSubBytes s)[k] = invSbox s[k] := by
  simp [invSubBytes]

theorem addRoundKey_getElem (s x : Block) (k : Nat) (h : k < 16) : (addRoundKey s x)[k] = s[k] ^^^ x[k] := by
  simp [addRoundKey]

theorem rotationsOf_getElem (top : Vector Byte 4) (i j : Fin 4) : ((rotationsOf top)[i])[j] = top[j - i] := by
  simp [rotationsOf]

theorem mixWith_getElem (m : Matrix4) (s : Block) (k : Nat) (h : k < 16) :
    (mixWith m s)[k] =
      gmul (m[k % 4])[0] s[4 * (k / 4)] ^^^ gmul (m[k % 4])[1] s[4 * (k / 4) + 1] ^^^
        gmul (m[k % 4])[2] s[4 * (k / 4) + 2] ^^^ gmul (m[k % 4])[3] s[4 * (k / 4) + 3] := by
  simp [mixWith]

end Aes

/-- The SUB entry of an artifact is the table's (R84). -/
theorem subEntry_artifact (dir : Byte) (tb : Tables) {r : Nat} (hr : 1 ≤ r) (hr' : r ≤ 10) (j : Lane) (x : Byte) :
    subEntry (artifact dir tb) r j.val x = tb.sub r j x := by
  have hx := x.isLt
  have hj := j.isLt
  have e : subOff r j.val + x.toNat - 0x20 = 0x1000 * (r - 1) + 0x100 * j.val + x.toNat := by simp only [subOff]; omega
  simp only [subEntry, memRead1, artifact]
  rw [if_neg (by simp only [subOff]; omega), if_pos (by simp only [subOff]; omega), e]
  have e1 : (0x1000 * (r - 1) + 0x100 * j.val + x.toNat) / 0x1000 + 1 = r := by omega
  have e2 : Fin.ofNat 16 ((0x1000 * (r - 1) + 0x100 * j.val + x.toNat) / 0x100) = j := by
    apply Fin.ext; simp only [Fin.ofNat]; omega
  have e3 : BitVec.ofNat 8 (0x1000 * (r - 1) + 0x100 * j.val + x.toNat) = x := by
    apply BitVec.eq_of_toNat_eq; simp only [BitVec.toNat_ofNat]; omega
  rw [e1, e2, e3]

/-- The MC entry of an artifact is the table's (R85). -/
theorem mcEntry_artifact (dir : Byte) (tb : Tables) {r : Nat} (hr : 1 ≤ r) (hr' : r ≤ 9) (j : Lane) (y : Byte) :
    mcEntry (artifact dir tb) r j.val y = tb.mc r j y := by
  have hy := y.isLt
  have hj := j.isLt
  have key : ∀ i, i < 4 → artifact dir tb (mcOff r j.val + 4 * y.toNat + i) = byteOfWord (tb.mc r j y) i := by
    intro i hi
    have e : mcOff r j.val + 4 * y.toNat + i - 0xA020 = 0x4000 * (r - 1) + 0x400 * j.val + 4 * y.toNat + i := by simp only [mcOff]; omega
    simp only [artifact]
    rw [if_neg (by simp only [mcOff]; omega), if_neg (by simp only [mcOff]; omega), if_pos (by simp only [mcOff, Config.tsBytes]; omega), e]
    have e1 : (0x4000 * (r - 1) + 0x400 * j.val + 4 * y.toNat + i) / 0x4000 + 1 = r := by omega
    have e2 : Fin.ofNat 16 ((0x4000 * (r - 1) + 0x400 * j.val + 4 * y.toNat + i) / 0x400) = j := by
      apply Fin.ext; simp only [Fin.ofNat]; omega
    have e3 : BitVec.ofNat 8 ((0x4000 * (r - 1) + 0x400 * j.val + 4 * y.toNat + i) / 4) = y := by
      apply BitVec.eq_of_toNat_eq; simp only [BitVec.toNat_ofNat]; omega
    rw [e1, e2, e3, show (0x4000 * (r - 1) + 0x400 * j.val + 4 * y.toNat + i) % 4 = i by omega]
  have k0 := key 0 (by omega)
  rw [Nat.add_zero] at k0
  simp only [mcEntry, memRead4, k0, key 1 (by omega), key 2 (by omega), key 3 (by omega)]
  exact word4_byteOfWord _

end Sys2Proof.Machine
end

