-- ==== Sys2Proof/Laws/Memory.lean ====
section
/-! SUPPORT. The laws of the table memory: read after write, and the canonical form, which every write keeps and which makes equal contents equal data. -/

namespace Sys2Proof.Machine

theorem Memory.written_writeByte (m : Memory) (k a : Nat) (v : Byte) :
    (m.writeByte k v).written a = if a = k then some v else m.written a := by
  induction m with
  | nil => simp only [Memory.writeByte, Memory.written]; split <;> split <;> simp_all
  | cons c rest ih =>
    obtain ⟨b, w⟩ := c
    simp only [Memory.writeByte]
    by_cases h1 : k < b
    · rw [if_pos h1]; simp only [Memory.written]; simp only [eq_comm]
    by_cases h2 : k = b
    · subst h2; rw [if_neg h1, if_pos rfl]; simp only [Memory.written]
      by_cases h : a = k
      · simp [h]
      · simp [h, Ne.symm h]
    · rw [if_neg h1, if_neg h2]; simp only [Memory.written, ih]
      by_cases h : a = k
      · subst h; simp [Ne.symm h2]
      · simp [h]

theorem Memory.written_writeByte_self (m : Memory) (k : Nat) (v : Byte) : (m.writeByte k v).written k = some v := by
  simp [Memory.written_writeByte]

theorem Memory.written_writeByte_ne (m : Memory) {k a : Nat} (v : Byte) (h : a ≠ k) : (m.writeByte k v).written a = m.written a := by
  simp [Memory.written_writeByte, h]

theorem Memory.mem_writeByte {m : Memory} {k : Nat} {v : Byte} {c : Host.Cell} (h : c ∈ m.writeByte k v) : c = (k, v) ∨ c ∈ m := by
  induction m with
  | nil => simpa [Memory.writeByte] using h
  | cons d rest ih =>
    obtain ⟨a, b⟩ := d
    simp only [Memory.writeByte] at h
    split_ifs at h
    · simpa using h
    · rcases List.mem_cons.1 h with h | h
      · exact .inl h
      · exact .inr (List.mem_cons_of_mem _ h)
    · rcases List.mem_cons.1 h with h | h
      · exact .inr (h ▸ List.mem_cons_self)
      · exact (ih h).imp id (List.mem_cons_of_mem _)

theorem Memory.wf_nil : Memory.wf [] := by simp [Memory.wf]

theorem Memory.wf_writeByte {m : Memory} (hm : m.wf) {k : Nat} (hk : k < Config.tmemBytes) (v : Byte) : (m.writeByte k v).wf := by
  obtain ⟨hs, hb⟩ := hm
  refine ⟨?_, fun c hc => (Memory.mem_writeByte hc).elim (fun h => h ▸ hk) (hb c)⟩
  induction m with
  | nil => simp [Memory.writeByte]
  | cons d rest ih =>
    obtain ⟨a, b⟩ := d
    rw [List.pairwise_cons] at hs
    simp only [Memory.writeByte]
    split_ifs with h1 h2
    · refine List.pairwise_cons.2 ⟨fun c hc => ?_, List.pairwise_cons.2 hs⟩
      rcases List.mem_cons.1 hc with rfl | hc
      · exact h1
      · exact h1.trans (hs.1 c hc)
    · subst h2; exact List.pairwise_cons.2 hs
    · refine List.pairwise_cons.2 ⟨fun c hc => ?_, ih hs.2 fun c hc => hb c (List.mem_cons_of_mem _ hc)⟩
      rcases Memory.mem_writeByte hc with rfl | hc
      · show a < k; omega
      · exact hs.1 c hc

theorem Memory.written_writeWord (m : Memory) (k a : Nat) (v : Word) :
    (m.writeWord k v).written a = if k ≤ a ∧ a < k + 4 then some (byteOfWord v (a - k)) else m.written a := by
  simp only [Memory.writeWord, Memory.written_writeByte]
  by_cases h : k ≤ a ∧ a < k + 4
  · obtain ⟨i, hi, rfl⟩ : ∃ i, i < 4 ∧ a = k + i := ⟨a - k, by omega, by omega⟩
    interval_cases i <;> simp
  · rw [if_neg h, if_neg (by omega), if_neg (by omega), if_neg (by omega), if_neg (by omega)]

theorem Memory.wf_writeWord {m : Memory} (hm : m.wf) {k : Nat} (hk : k + 3 < Config.tmemBytes) (v : Word) : (m.writeWord k v).wf :=
  Memory.wf_writeByte (Memory.wf_writeByte (Memory.wf_writeByte (Memory.wf_writeByte hm (by omega) _) (by omega) _) (by omega) _) hk _

theorem Memory.written_eq_none {m : Memory} {k : Nat} (h : ∀ c ∈ m, k < c.1) : m.written k = none := by
  induction m with
  | nil => rfl
  | cons d rest ih =>
    obtain ⟨a, b⟩ := d
    have ha : k < a := h (a, b) List.mem_cons_self
    simp only [Memory.written, if_neg (show ¬ a = k by omega)]
    exact ih fun c hc => h c (List.mem_cons_of_mem _ hc)

/-- Equal contents are equal data: two memories in canonical form that answer every lookup alike are the same list. -/
theorem Memory.eq_of_written {m n : Memory} (hm : m.wf) (hn : n.wf) (h : ∀ a, m.written a = n.written a) : m = n := by
  obtain ⟨hm, -⟩ := hm
  obtain ⟨hn, -⟩ := hn
  induction m generalizing n with
  | nil =>
    cases n with
    | nil => rfl
    | cons d rest => have := h d.1; simp [Memory.written] at this
  | cons c mr ih =>
    obtain ⟨a, v⟩ := c
    rw [List.pairwise_cons] at hm
    cases n with
    | nil => have := h a; simp [Memory.written] at this
    | cons d nr =>
      obtain ⟨b, w⟩ := d
      rw [List.pairwise_cons] at hn
      have hmr : Memory.written mr a = none := Memory.written_eq_none hm.1
      have hnr : Memory.written nr b = none := Memory.written_eq_none hn.1
      have hab : a = b := by
        rcases Nat.lt_trichotomy a b with hlt | heq | hlt
        · have h1 := h a
          have : Memory.written nr a = none := Memory.written_eq_none fun c hc => hlt.trans (hn.1 c hc)
          simp [Memory.written, this, show ¬ b = a by omega] at h1
        · exact heq
        · have h1 := h b
          have : Memory.written mr b = none := Memory.written_eq_none fun c hc => hlt.trans (hm.1 c hc)
          simp [Memory.written, this, show ¬ a = b by omega] at h1
      subst hab
      have hvw : v = w := by simpa [Memory.written] using h a
      subst hvw
      refine congrArg _ (ih (fun x => ?_) hm.2 hn.2)
      by_cases hx : a = x
      · subst hx; rw [hmr, hnr]
      · simpa [Memory.written, hx] using h x

/-- What an unwritten byte reads as: the draw (R262). -/
theorem image_unwritten {s : State} {a : Nat} (h : s.tmem.written a = none) : s.image a = Config.tmemInit s.era a := by
  simp [State.image, h]

theorem image_written {s : State} {a : Nat} {v : Byte} (h : s.tmem.written a = some v) : s.image a = v := by
  simp [State.image, h]

/-- The contents after a word write (R12, R80). -/
theorem image_writeWord (s : State) (k : Nat) (v : Word) (a : Nat) :
    { s with tmem := s.tmem.writeWord k v }.image a = if k ≤ a ∧ a < k + 4 then byteOfWord v (a - k) else s.image a := by
  simp only [State.image, Memory.written_writeWord]
  split <;> rfl

end Sys2Proof.Machine
end

