-- ==== Sys2Proof/Laws/Contract.lean ====
section
/-! SUPPORT. The reference table-sets layer by layer (spec/40_cipher.md R162): what one round of the network does on them, and which bytes of an image it depends on. -/

namespace Sys2Proof.Machine

open Sys2Proof.Machine.Aes

theorem xtime_xor (x y : Byte) : xtime (x ^^^ y) = xtime x ^^^ xtime y := by
  unfold xtime
  rw [BitVec.getLsbD_xor, BitVec.shiftLeft_xor_distrib]
  generalize x <<< 1 = a
  generalize y <<< 1 = b
  cases x.getLsbD 7 <;> cases y.getLsbD 7 <;> simp
  · ac_rfl
  · ac_rfl
  · rw [show a ^^^ 27#8 ^^^ (b ^^^ 27#8) = a ^^^ b ^^^ (27#8 ^^^ 27#8) by ac_rfl]; simp

theorem gmulBits_xor (n : Nat) (a x y : Byte) : gmulBits n a (x ^^^ y) = gmulBits n a x ^^^ gmulBits n a y := by
  induction n generalizing a x y with
  | zero => simp [gmulBits]
  | succ n ih =>
    simp only [gmulBits, xtime_xor, ih]
    cases a.getLsbD 0 <;> simp
    ac_rfl

theorem gmul_xor (a x y : Byte) : gmul a (x ^^^ y) = gmul a x ^^^ gmul a y := gmulBits_xor 8 a x y

theorem mixWith_addRoundKey (m : Matrix4) (x y : Block) : mixWith m (addRoundKey x y) = addRoundKey (mixWith m x) (mixWith m y) := by
  refine block_ext fun k hk => ?_
  simp only [mixWith_getElem, addRoundKey_getElem, gmul_xor]
  ac_rfl

/-- The byte substitution of a direction on every lane. -/
def Direction.subAll (d : Direction) (s : Block) : Block := Vector.ofFn fun k : Lane => d.sbox s[k]

theorem subAll_getElem (d : Direction) (s : Block) (k : Nat) (h : k < 16) : (d.subAll s)[k] = d.sbox s[k] := by simp [Direction.subAll]

/-- Wiring and SUB of a round 1..9 of a reference table-set: add the absorbed key, substitute, wire. -/
theorem refImage_subLayer (d : Direction) (k : Block) {r : Nat} (h1 : 1 ≤ r) (h2 : r ≤ 9) (s : Block) :
    subLayer (refImage d k) r (wire d.wiring s) = wire d.wiring (d.subAll (addRoundKey s (refKey d k (r - 1)))) := by
  refine block_ext fun j hj => ?_
  rw [subLayer_getElem, wire_getElem, wire_getElem, subAll_getElem, addRoundKey_getElem]
  refine (subEntry_artifact _ _ h1 (by omega) ⟨j, hj⟩ _).trans ?_
  simp only [refSub, if_pos h2]
  rfl

/-- The last round of a reference table-set. -/
theorem refImage_lastRound (d : Direction) (k : Block) (s : Block) :
    lastRound (refImage d k) d.wiring 10 s = addRoundKey (wire d.wiring (d.subAll (addRoundKey s (refKey d k 9)))) (refLastKey d k) := by
  refine block_ext fun j hj => ?_
  rw [lastRound, subLayer_getElem, addRoundKey_getElem, wire_getElem, wire_getElem, subAll_getElem, addRoundKey_getElem]
  refine (subEntry_artifact _ _ (by omega) (by omega) ⟨j, hj⟩ _).trans ?_
  rfl

/-- The MC stage of a reference table-set is the column matrix. -/
theorem refImage_mcLayer (d : Direction) (k : Block) {r : Nat} (h1 : 1 ≤ r) (h2 : r ≤ 9) (u : Block) :
    mcLayer (refImage d k) r u = mixWith d.matrix u := by
  have e : ∀ i (hi : i < 16) y, mcEntry (refImage d k) r i y = refMc d ⟨i, hi⟩ y := fun i hi y => mcEntry_artifact _ _ h1 h2 ⟨i, hi⟩ y
  refine block_ext fun j hj => ?_
  rw [mcLayer_getElem, mixWith_getElem, mcColumn, e _ (by omega), e _ (by omega), e _ (by omega), e _ (by omega)]
  simp only [byteOfWord_xor, refMc]
  have e0 : (4 * (j / 4)) % 4 = 0 := by omega
  have e1 : (4 * (j / 4) + 1) % 4 = 1 := by omega
  have e2 : (4 * (j / 4) + 2) % 4 = 2 := by omega
  have e3 : (4 * (j / 4) + 3) % 4 = 3 := by omega
  simp only [e0, e1, e2, e3]
  have hc : j % 4 = 0 ∨ j % 4 = 1 ∨ j % 4 = 2 ∨ j % 4 = 3 := by omega
  rcases hc with h | h | h | h <;> simp [h]

/-- One round 1..9 of a reference table-set. -/
theorem refImage_netRound (d : Direction) (k : Block) {r : Nat} (h1 : 1 ≤ r) (h2 : r ≤ 9) (s : Block) :
    netRound (refImage d k) d.wiring r s = mixWith d.matrix (wire d.wiring (d.subAll (addRoundKey s (refKey d k (r - 1))))) := by
  rw [netRound, refImage_subLayer d k h1 h2, refImage_mcLayer d k h1 h2]

theorem shiftRows_subBytes (s : Block) : shiftRows (subBytes s) = wire wiringE (Direction.encrypt.subAll s) := by
  refine block_ext fun j hj => ?_
  simp only [shiftRows, wire_getElem, subBytes_getElem, subAll_getElem]
  rfl

theorem invSubBytes_invShiftRows (s : Block) : invSubBytes (invShiftRows s) = wire wiringD (Direction.decrypt.subAll s) := by
  refine block_ext fun j hj => ?_
  simp only [invShiftRows, wire_getElem, invSubBytes_getElem, subAll_getElem]
  rfl

theorem hdrOK_refImage (d : Direction) (k : Block) : hdrOK (refImage d k) = true := by
  cases d <;> simp [hdrOK, memRead4, refImage, artifact, headerBytes, Direction.byte] <;> decide

theorem subEntry_congr {t t' : Image} (h : ∀ a, a < Config.tsBytes → t a = t' a) {r j : Nat} (h1 : 1 ≤ r) (h2 : r ≤ 10) (hj : j < 16) (x : Byte) :
    subEntry t r j x = subEntry t' r j x := by
  have := x.isLt
  refine h _ ?_
  simp only [subOff, Config.tsBytes]
  omega

theorem mcEntry_congr {t t' : Image} (h : ∀ a, a < Config.tsBytes → t a = t' a) {r j : Nat} (h1 : 1 ≤ r) (h2 : r ≤ 9) (hj : j < 16) (y : Byte) :
    mcEntry t r j y = mcEntry t' r j y := by
  have := y.isLt
  have k : ∀ i, i < 4 → t (mcOff r j + 4 * y.toNat + i) = t' (mcOff r j + 4 * y.toNat + i) := by
    intro i hi
    refine h _ ?_
    simp only [mcOff, Config.tsBytes]
    omega
  simp only [mcEntry, memRead4]
  rw [show t (mcOff r j + 4 * y.toNat) = t' (mcOff r j + 4 * y.toNat) from k 0 (by omega), k 1 (by omega), k 2 (by omega), k 3 (by omega)]

theorem subLayer_congr {t t' : Image} (h : ∀ a, a < Config.tsBytes → t a = t' a) {r : Nat} (h1 : 1 ≤ r) (h2 : r ≤ 10) (x : Block) :
    subLayer t r x = subLayer t' r x := by
  refine block_ext fun k hk => ?_
  rw [subLayer_getElem, subLayer_getElem, subEntry_congr h h1 h2 hk]

theorem netRound_congr {t t' : Image} (h : ∀ a, a < Config.tsBytes → t a = t' a) (p : Wiring) {r : Nat} (h1 : 1 ≤ r) (h2 : r ≤ 9) (s : Block) :
    netRound t p r s = netRound t' p r s := by
  rw [netRound, netRound, subLayer_congr h h1 (by omega)]
  refine block_ext fun k hk => ?_
  rw [mcLayer_getElem, mcLayer_getElem]
  simp only [mcColumn]
  rw [mcEntry_congr h h1 h2 (by omega), mcEntry_congr h h1 h2 (by omega), mcEntry_congr h h1 h2 (by omega), mcEntry_congr h h1 h2 (by omega)]

theorem netRounds_congr {t t' : Image} (h : ∀ a, a < Config.tsBytes → t a = t' a) (p : Wiring) {n : Nat} (hn : n ≤ 9) (b : Block) :
    netRounds t p n b = netRounds t' p n b := by
  induction n with
  | zero => rfl
  | succ n ih => rw [netRounds, netRounds, ih (by omega), netRound_congr h p (by omega) hn]

/-- The network on two images that agree below TS_BYTES. -/
theorem wb_congr {t t' : Image} (h : ∀ a, a < Config.tsBytes → t a = t' a) (p : Wiring) (b : Block) : wb t p b = wb t' p b := by
  rw [wb, wb, lastRound, lastRound, netRounds_congr h p (by decide), subLayer_congr h (by decide) (by decide)]

/-- What the bytes of an artifact listed in order read as. -/
theorem written_rangeMap (f : Image) (n i k : Nat) :
    Memory.written ((List.range' i n).map fun a => (a, f a)) k = if i ≤ k ∧ k < i + n then some (f k) else none := by
  induction n generalizing i with
  | zero => simp [Memory.written]
  | succ n ih =>
    simp only [List.range'_succ, List.map_cons, Memory.written, ih]
    by_cases h : i = k
    · subst h; simp
    · rw [if_neg h]
      by_cases h2 : i + 1 ≤ k ∧ k < i + 1 + n
      · rw [if_pos h2, if_pos (by omega)]
      · rw [if_neg h2, if_neg (by omega)]

end Sys2Proof.Machine
end

