-- ==== Sys2Proof/Laws/State.lean ====
section
/-! SUPPORT. One lemma per field per update of the state and of STATUS, each true by rfl, so that no proof unfolds a record update. -/

namespace Sys2Proof.Machine

@[simp] theorem accept_status (s : State) (v : Word) : (s.accept v).status = s.status.accept := rfl
@[simp] theorem accept_ie (s : State) (v : Word) : (s.accept v).ie = s.ie := rfl
@[simp] theorem accept_din (s : State) (v : Word) : (s.accept v).din = s.din := rfl
@[simp] theorem accept_dout (s : State) (v : Word) : (s.accept v).dout = s.dout := rfl
@[simp] theorem accept_tmem (s : State) (v : Word) : (s.accept v).tmem = s.tmem := rfl
@[simp] theorem accept_lcmd (s : State) (v : Word) : (s.accept v).lcmd = v := rfl
@[simp] theorem accept_sigma (s : State) (v : Word) : (s.accept v).sigma = s.sigma := rfl
@[simp] theorem accept_round (s : State) (v : Word) : (s.accept v).round = s.round := rfl
@[simp] theorem accept_era (s : State) (v : Word) : (s.accept v).era = s.era := rfl
@[simp] theorem accept_freeCount (s : State) (v : Word) : (s.accept v).freeCount = s.freeCount := rfl
@[simp] theorem accept_host (s : State) (v : Word) : (s.accept v).host = s.host := rfl
@[simp] theorem accept_turns (s : State) (v : Word) : (s.accept v).turns = s.turns := rfl
@[simp] theorem accept_responses (s : State) (v : Word) : (s.accept v).responses = s.responses := rfl
@[simp] theorem accept_image (s : State) (v : Word) : (s.accept v).image = s.image := rfl

@[simp] theorem complete_status (s : State) : (s.complete).status = s.status.succeed := rfl
@[simp] theorem complete_ie (s : State) : (s.complete).ie = s.ie := rfl
@[simp] theorem complete_din (s : State) : (s.complete).din = s.din := rfl
@[simp] theorem complete_dout (s : State) : (s.complete).dout = s.dout := rfl
@[simp] theorem complete_tmem (s : State) : (s.complete).tmem = s.tmem := rfl
@[simp] theorem complete_lcmd (s : State) : (s.complete).lcmd = s.lcmd := rfl
@[simp] theorem complete_sigma (s : State) : (s.complete).sigma = s.sigma := rfl
@[simp] theorem complete_round (s : State) : (s.complete).round = s.round := rfl
@[simp] theorem complete_era (s : State) : (s.complete).era = s.era := rfl
@[simp] theorem complete_freeCount (s : State) : (s.complete).freeCount = s.freeCount := rfl
@[simp] theorem complete_host (s : State) : (s.complete).host = s.host := rfl
@[simp] theorem complete_turns (s : State) : (s.complete).turns = s.turns := rfl
@[simp] theorem complete_responses (s : State) : (s.complete).responses = s.responses := rfl
@[simp] theorem complete_image (s : State) : (s.complete).image = s.image := rfl

@[simp] theorem raiseError_status (s : State) (e : CmdError) : (s.raiseError e).status = s.status.fail e := rfl
@[simp] theorem raiseError_ie (s : State) (e : CmdError) : (s.raiseError e).ie = s.ie := rfl
@[simp] theorem raiseError_din (s : State) (e : CmdError) : (s.raiseError e).din = s.din := rfl
@[simp] theorem raiseError_dout (s : State) (e : CmdError) : (s.raiseError e).dout = s.dout := rfl
@[simp] theorem raiseError_tmem (s : State) (e : CmdError) : (s.raiseError e).tmem = s.tmem := rfl
@[simp] theorem raiseError_lcmd (s : State) (e : CmdError) : (s.raiseError e).lcmd = s.lcmd := rfl
@[simp] theorem raiseError_sigma (s : State) (e : CmdError) : (s.raiseError e).sigma = s.sigma := rfl
@[simp] theorem raiseError_round (s : State) (e : CmdError) : (s.raiseError e).round = s.round := rfl
@[simp] theorem raiseError_era (s : State) (e : CmdError) : (s.raiseError e).era = s.era := rfl
@[simp] theorem raiseError_freeCount (s : State) (e : CmdError) : (s.raiseError e).freeCount = s.freeCount := rfl
@[simp] theorem raiseError_host (s : State) (e : CmdError) : (s.raiseError e).host = s.host := rfl
@[simp] theorem raiseError_turns (s : State) (e : CmdError) : (s.raiseError e).turns = s.turns := rfl
@[simp] theorem raiseError_responses (s : State) (e : CmdError) : (s.raiseError e).responses = s.responses := rfl
@[simp] theorem raiseError_image (s : State) (e : CmdError) : (s.raiseError e).image = s.image := rfl

@[simp] theorem setTsv_status (s : State) (b : Bool) : (s.setTsv b).status = { s.status with tsv := b } := rfl
@[simp] theorem setTsv_ie (s : State) (b : Bool) : (s.setTsv b).ie = s.ie := rfl
@[simp] theorem setTsv_din (s : State) (b : Bool) : (s.setTsv b).din = s.din := rfl
@[simp] theorem setTsv_dout (s : State) (b : Bool) : (s.setTsv b).dout = s.dout := rfl
@[simp] theorem setTsv_tmem (s : State) (b : Bool) : (s.setTsv b).tmem = s.tmem := rfl
@[simp] theorem setTsv_lcmd (s : State) (b : Bool) : (s.setTsv b).lcmd = s.lcmd := rfl
@[simp] theorem setTsv_sigma (s : State) (b : Bool) : (s.setTsv b).sigma = s.sigma := rfl
@[simp] theorem setTsv_round (s : State) (b : Bool) : (s.setTsv b).round = s.round := rfl
@[simp] theorem setTsv_era (s : State) (b : Bool) : (s.setTsv b).era = s.era := rfl
@[simp] theorem setTsv_freeCount (s : State) (b : Bool) : (s.setTsv b).freeCount = s.freeCount := rfl
@[simp] theorem setTsv_host (s : State) (b : Bool) : (s.setTsv b).host = s.host := rfl
@[simp] theorem setTsv_turns (s : State) (b : Bool) : (s.setTsv b).turns = s.turns := rfl
@[simp] theorem setTsv_responses (s : State) (b : Bool) : (s.setTsv b).responses = s.responses := rfl
@[simp] theorem setTsv_image (s : State) (b : Bool) : (s.setTsv b).image = s.image := rfl

@[simp] theorem setDir_status (s : State) (b : Bool) : (s.setDir b).status = { s.status with dir := b } := rfl
@[simp] theorem setDir_ie (s : State) (b : Bool) : (s.setDir b).ie = s.ie := rfl
@[simp] theorem setDir_din (s : State) (b : Bool) : (s.setDir b).din = s.din := rfl
@[simp] theorem setDir_dout (s : State) (b : Bool) : (s.setDir b).dout = s.dout := rfl
@[simp] theorem setDir_tmem (s : State) (b : Bool) : (s.setDir b).tmem = s.tmem := rfl
@[simp] theorem setDir_lcmd (s : State) (b : Bool) : (s.setDir b).lcmd = s.lcmd := rfl
@[simp] theorem setDir_sigma (s : State) (b : Bool) : (s.setDir b).sigma = s.sigma := rfl
@[simp] theorem setDir_round (s : State) (b : Bool) : (s.setDir b).round = s.round := rfl
@[simp] theorem setDir_era (s : State) (b : Bool) : (s.setDir b).era = s.era := rfl
@[simp] theorem setDir_freeCount (s : State) (b : Bool) : (s.setDir b).freeCount = s.freeCount := rfl
@[simp] theorem setDir_host (s : State) (b : Bool) : (s.setDir b).host = s.host := rfl
@[simp] theorem setDir_turns (s : State) (b : Bool) : (s.setDir b).turns = s.turns := rfl
@[simp] theorem setDir_responses (s : State) (b : Bool) : (s.setDir b).responses = s.responses := rfl
@[simp] theorem setDir_image (s : State) (b : Bool) : (s.setDir b).image = s.image := rfl

@[simp] theorem setWign_status (s : State) : (s.setWign).status = { s.status with wign := true } := rfl
@[simp] theorem setWign_ie (s : State) : (s.setWign).ie = s.ie := rfl
@[simp] theorem setWign_din (s : State) : (s.setWign).din = s.din := rfl
@[simp] theorem setWign_dout (s : State) : (s.setWign).dout = s.dout := rfl
@[simp] theorem setWign_tmem (s : State) : (s.setWign).tmem = s.tmem := rfl
@[simp] theorem setWign_lcmd (s : State) : (s.setWign).lcmd = s.lcmd := rfl
@[simp] theorem setWign_sigma (s : State) : (s.setWign).sigma = s.sigma := rfl
@[simp] theorem setWign_round (s : State) : (s.setWign).round = s.round := rfl
@[simp] theorem setWign_era (s : State) : (s.setWign).era = s.era := rfl
@[simp] theorem setWign_freeCount (s : State) : (s.setWign).freeCount = s.freeCount := rfl
@[simp] theorem setWign_host (s : State) : (s.setWign).host = s.host := rfl
@[simp] theorem setWign_turns (s : State) : (s.setWign).turns = s.turns := rfl
@[simp] theorem setWign_responses (s : State) : (s.setWign).responses = s.responses := rfl
@[simp] theorem setWign_image (s : State) : (s.setWign).image = s.image := rfl

@[simp] theorem output_status (s : State) (o : Block) (n : BitVec 5) : (s.output o n).status = { s.status with outlen := n } := rfl
@[simp] theorem output_ie (s : State) (o : Block) (n : BitVec 5) : (s.output o n).ie = s.ie := rfl
@[simp] theorem output_din (s : State) (o : Block) (n : BitVec 5) : (s.output o n).din = s.din := rfl
@[simp] theorem output_dout (s : State) (o : Block) (n : BitVec 5) : (s.output o n).dout = o := rfl
@[simp] theorem output_tmem (s : State) (o : Block) (n : BitVec 5) : (s.output o n).tmem = s.tmem := rfl
@[simp] theorem output_lcmd (s : State) (o : Block) (n : BitVec 5) : (s.output o n).lcmd = s.lcmd := rfl
@[simp] theorem output_sigma (s : State) (o : Block) (n : BitVec 5) : (s.output o n).sigma = s.sigma := rfl
@[simp] theorem output_round (s : State) (o : Block) (n : BitVec 5) : (s.output o n).round = s.round := rfl
@[simp] theorem output_era (s : State) (o : Block) (n : BitVec 5) : (s.output o n).era = s.era := rfl
@[simp] theorem output_freeCount (s : State) (o : Block) (n : BitVec 5) : (s.output o n).freeCount = s.freeCount := rfl
@[simp] theorem output_host (s : State) (o : Block) (n : BitVec 5) : (s.output o n).host = s.host := rfl
@[simp] theorem output_turns (s : State) (o : Block) (n : BitVec 5) : (s.output o n).turns = s.turns := rfl
@[simp] theorem output_responses (s : State) (o : Block) (n : BitVec 5) : (s.output o n).responses = s.responses := rfl
@[simp] theorem output_image (s : State) (o : Block) (n : BitVec 5) : (s.output o n).image = s.image := rfl

@[simp] theorem respond_status (s : State) (r : Response) : (s.respond r).status = s.status := rfl
@[simp] theorem respond_ie (s : State) (r : Response) : (s.respond r).ie = s.ie := rfl
@[simp] theorem respond_din (s : State) (r : Response) : (s.respond r).din = s.din := rfl
@[simp] theorem respond_dout (s : State) (r : Response) : (s.respond r).dout = s.dout := rfl
@[simp] theorem respond_tmem (s : State) (r : Response) : (s.respond r).tmem = s.tmem := rfl
@[simp] theorem respond_lcmd (s : State) (r : Response) : (s.respond r).lcmd = s.lcmd := rfl
@[simp] theorem respond_sigma (s : State) (r : Response) : (s.respond r).sigma = s.sigma := rfl
@[simp] theorem respond_round (s : State) (r : Response) : (s.respond r).round = s.round := rfl
@[simp] theorem respond_era (s : State) (r : Response) : (s.respond r).era = s.era := rfl
@[simp] theorem respond_freeCount (s : State) (r : Response) : (s.respond r).freeCount = s.freeCount := rfl
@[simp] theorem respond_host (s : State) (r : Response) : (s.respond r).host = s.host := rfl
@[simp] theorem respond_turns (s : State) (r : Response) : (s.respond r).turns = s.turns := rfl
@[simp] theorem respond_responses (s : State) (r : Response) : (s.respond r).responses = r :: s.responses := rfl
@[simp] theorem respond_image (s : State) (r : Response) : (s.respond r).image = s.image := rfl

@[simp] theorem popTurn_status (s : State) : (s.popTurn).status = s.status := rfl
@[simp] theorem popTurn_ie (s : State) : (s.popTurn).ie = s.ie := rfl
@[simp] theorem popTurn_din (s : State) : (s.popTurn).din = s.din := rfl
@[simp] theorem popTurn_dout (s : State) : (s.popTurn).dout = s.dout := rfl
@[simp] theorem popTurn_tmem (s : State) : (s.popTurn).tmem = s.tmem := rfl
@[simp] theorem popTurn_lcmd (s : State) : (s.popTurn).lcmd = s.lcmd := rfl
@[simp] theorem popTurn_sigma (s : State) : (s.popTurn).sigma = s.sigma := rfl
@[simp] theorem popTurn_round (s : State) : (s.popTurn).round = s.round := rfl
@[simp] theorem popTurn_era (s : State) : (s.popTurn).era = s.era := rfl
@[simp] theorem popTurn_freeCount (s : State) : (s.popTurn).freeCount = s.freeCount := rfl
@[simp] theorem popTurn_host (s : State) : (s.popTurn).host = s.host := rfl
@[simp] theorem popTurn_turns (s : State) : (s.popTurn).turns = s.turns.tail := rfl
@[simp] theorem popTurn_responses (s : State) : (s.popTurn).responses = s.responses := rfl
@[simp] theorem popTurn_image (s : State) : (s.popTurn).image = s.image := rfl

@[simp] theorem commandDue_status (s : State) (v : Word) : (s.commandDue v).status = s.status.accept := rfl
@[simp] theorem commandDue_ie (s : State) (v : Word) : (s.commandDue v).ie = s.ie := rfl
@[simp] theorem commandDue_din (s : State) (v : Word) : (s.commandDue v).din = s.din := rfl
@[simp] theorem commandDue_dout (s : State) (v : Word) : (s.commandDue v).dout = s.dout := rfl
@[simp] theorem commandDue_tmem (s : State) (v : Word) : (s.commandDue v).tmem = s.tmem := rfl
@[simp] theorem commandDue_lcmd (s : State) (v : Word) : (s.commandDue v).lcmd = v := rfl
@[simp] theorem commandDue_sigma (s : State) (v : Word) : (s.commandDue v).sigma = s.sigma := rfl
@[simp] theorem commandDue_round (s : State) (v : Word) : (s.commandDue v).round = s.round := rfl
@[simp] theorem commandDue_era (s : State) (v : Word) : (s.commandDue v).era = s.era := rfl
@[simp] theorem commandDue_freeCount (s : State) (v : Word) : (s.commandDue v).freeCount = s.freeCount := rfl
@[simp] theorem commandDue_host (s : State) (v : Word) : (s.commandDue v).host = s.host := rfl
@[simp] theorem commandDue_turns (s : State) (v : Word) : (s.commandDue v).turns = .engine :: s.turns := rfl
@[simp] theorem commandDue_responses (s : State) (v : Word) : (s.commandDue v).responses = s.responses := rfl
@[simp] theorem commandDue_image (s : State) (v : Word) : (s.commandDue v).image = s.image := rfl

@[simp] theorem startWalk_status (s : State) : (s.startWalk).status = s.status := rfl
@[simp] theorem startWalk_ie (s : State) : (s.startWalk).ie = s.ie := rfl
@[simp] theorem startWalk_din (s : State) : (s.startWalk).din = s.din := rfl
@[simp] theorem startWalk_dout (s : State) : (s.startWalk).dout = s.dout := rfl
@[simp] theorem startWalk_tmem (s : State) : (s.startWalk).tmem = s.tmem := rfl
@[simp] theorem startWalk_lcmd (s : State) : (s.startWalk).lcmd = s.lcmd := rfl
@[simp] theorem startWalk_sigma (s : State) : (s.startWalk).sigma = s.din := rfl
@[simp] theorem startWalk_round (s : State) : (s.startWalk).round = 1 := rfl
@[simp] theorem startWalk_era (s : State) : (s.startWalk).era = s.era := rfl
@[simp] theorem startWalk_freeCount (s : State) : (s.startWalk).freeCount = s.freeCount := rfl
@[simp] theorem startWalk_host (s : State) : (s.startWalk).host = s.host := rfl
@[simp] theorem startWalk_turns (s : State) : (s.startWalk).turns = s.turns := rfl
@[simp] theorem startWalk_responses (s : State) : (s.startWalk).responses = s.responses := rfl
@[simp] theorem startWalk_image (s : State) : (s.startWalk).image = s.image := rfl

@[simp] theorem walkRound_status (s : State) (p : Wiring) : (State.walkRound p s).status = s.status := rfl
@[simp] theorem walkRound_ie (s : State) (p : Wiring) : (State.walkRound p s).ie = s.ie := rfl
@[simp] theorem walkRound_din (s : State) (p : Wiring) : (State.walkRound p s).din = s.din := rfl
@[simp] theorem walkRound_dout (s : State) (p : Wiring) : (State.walkRound p s).dout = s.dout := rfl
@[simp] theorem walkRound_tmem (s : State) (p : Wiring) : (State.walkRound p s).tmem = s.tmem := rfl
@[simp] theorem walkRound_lcmd (s : State) (p : Wiring) : (State.walkRound p s).lcmd = s.lcmd := rfl
@[simp] theorem walkRound_sigma (s : State) (p : Wiring) : (State.walkRound p s).sigma = netRound s.image p s.round s.sigma := rfl
@[simp] theorem walkRound_round (s : State) (p : Wiring) : (State.walkRound p s).round = s.round + 1 := rfl
@[simp] theorem walkRound_era (s : State) (p : Wiring) : (State.walkRound p s).era = s.era := rfl
@[simp] theorem walkRound_freeCount (s : State) (p : Wiring) : (State.walkRound p s).freeCount = s.freeCount := rfl
@[simp] theorem walkRound_host (s : State) (p : Wiring) : (State.walkRound p s).host = s.host := rfl
@[simp] theorem walkRound_turns (s : State) (p : Wiring) : (State.walkRound p s).turns = s.turns := rfl
@[simp] theorem walkRound_responses (s : State) (p : Wiring) : (State.walkRound p s).responses = s.responses := rfl
@[simp] theorem walkRound_image (s : State) (p : Wiring) : (State.walkRound p s).image = s.image := rfl

@[simp] theorem dropWalk_status (s : State) : (s.dropWalk).status = s.status := rfl
@[simp] theorem dropWalk_ie (s : State) : (s.dropWalk).ie = s.ie := rfl
@[simp] theorem dropWalk_din (s : State) : (s.dropWalk).din = s.din := rfl
@[simp] theorem dropWalk_dout (s : State) : (s.dropWalk).dout = s.dout := rfl
@[simp] theorem dropWalk_tmem (s : State) : (s.dropWalk).tmem = s.tmem := rfl
@[simp] theorem dropWalk_lcmd (s : State) : (s.dropWalk).lcmd = s.lcmd := rfl
@[simp] theorem dropWalk_sigma (s : State) : (s.dropWalk).sigma = Config.freeSigma s.freeCount := rfl
@[simp] theorem dropWalk_round (s : State) : (s.dropWalk).round = Config.freeRound s.freeCount := rfl
@[simp] theorem dropWalk_era (s : State) : (s.dropWalk).era = s.era := rfl
@[simp] theorem dropWalk_freeCount (s : State) : (s.dropWalk).freeCount = s.freeCount + 1 := rfl
@[simp] theorem dropWalk_host (s : State) : (s.dropWalk).host = s.host := rfl
@[simp] theorem dropWalk_turns (s : State) : (s.dropWalk).turns = s.turns := rfl
@[simp] theorem dropWalk_responses (s : State) : (s.dropWalk).responses = s.responses := rfl
@[simp] theorem dropWalk_image (s : State) : (s.dropWalk).image = s.image := rfl

@[simp] theorem noteHeader_status (s : State) : (s.noteHeader).status = { s.status with tsv := true, dir := (dirb s.image).getLsbD 0 } := rfl
@[simp] theorem noteHeader_ie (s : State) : (s.noteHeader).ie = s.ie := rfl
@[simp] theorem noteHeader_din (s : State) : (s.noteHeader).din = s.din := rfl
@[simp] theorem noteHeader_dout (s : State) : (s.noteHeader).dout = s.dout := rfl
@[simp] theorem noteHeader_tmem (s : State) : (s.noteHeader).tmem = s.tmem := rfl
@[simp] theorem noteHeader_lcmd (s : State) : (s.noteHeader).lcmd = s.lcmd := rfl
@[simp] theorem noteHeader_sigma (s : State) : (s.noteHeader).sigma = s.sigma := rfl
@[simp] theorem noteHeader_round (s : State) : (s.noteHeader).round = s.round := rfl
@[simp] theorem noteHeader_era (s : State) : (s.noteHeader).era = s.era := rfl
@[simp] theorem noteHeader_freeCount (s : State) : (s.noteHeader).freeCount = s.freeCount := rfl
@[simp] theorem noteHeader_host (s : State) : (s.noteHeader).host = s.host := rfl
@[simp] theorem noteHeader_turns (s : State) : (s.noteHeader).turns = s.turns := rfl
@[simp] theorem noteHeader_responses (s : State) : (s.noteHeader).responses = s.responses := rfl
@[simp] theorem noteHeader_image (s : State) : (s.noteHeader).image = s.image := rfl

@[simp] theorem refuseHeader_status (s : State) : (s.refuseHeader).status = { s.status with tsv := false }.fail .malformedTableSet := rfl
@[simp] theorem refuseHeader_ie (s : State) : (s.refuseHeader).ie = s.ie := rfl
@[simp] theorem refuseHeader_din (s : State) : (s.refuseHeader).din = s.din := rfl
@[simp] theorem refuseHeader_dout (s : State) : (s.refuseHeader).dout = s.dout := rfl
@[simp] theorem refuseHeader_tmem (s : State) : (s.refuseHeader).tmem = s.tmem := rfl
@[simp] theorem refuseHeader_lcmd (s : State) : (s.refuseHeader).lcmd = s.lcmd := rfl
@[simp] theorem refuseHeader_sigma (s : State) : (s.refuseHeader).sigma = s.sigma := rfl
@[simp] theorem refuseHeader_round (s : State) : (s.refuseHeader).round = s.round := rfl
@[simp] theorem refuseHeader_era (s : State) : (s.refuseHeader).era = s.era := rfl
@[simp] theorem refuseHeader_freeCount (s : State) : (s.refuseHeader).freeCount = s.freeCount := rfl
@[simp] theorem refuseHeader_host (s : State) : (s.refuseHeader).host = s.host := rfl
@[simp] theorem refuseHeader_turns (s : State) : (s.refuseHeader).turns = s.turns := rfl
@[simp] theorem refuseHeader_responses (s : State) : (s.refuseHeader).responses = s.responses := rfl
@[simp] theorem refuseHeader_image (s : State) : (s.refuseHeader).image = s.image := rfl

@[simp] theorem resetBlock_status (s : State) : s.resetBlock.status = Status.zero := rfl
@[simp] theorem resetBlock_ie (s : State) : s.resetBlock.ie = false := rfl
@[simp] theorem resetBlock_din (s : State) : s.resetBlock.din = zeroBlock := rfl
@[simp] theorem resetBlock_dout (s : State) : s.resetBlock.dout = zeroBlock := rfl
@[simp] theorem resetBlock_tmem (s : State) : s.resetBlock.tmem = [] := rfl
@[simp] theorem resetBlock_lcmd (s : State) : s.resetBlock.lcmd = 0#32 := rfl
@[simp] theorem resetBlock_sigma (s : State) : s.resetBlock.sigma = zeroBlock := rfl
@[simp] theorem resetBlock_round (s : State) : s.resetBlock.round = 0 := rfl
@[simp] theorem resetBlock_era (s : State) : s.resetBlock.era = s.era + 1 := rfl
@[simp] theorem resetBlock_freeCount (s : State) : s.resetBlock.freeCount = s.freeCount := rfl
@[simp] theorem resetBlock_host (s : State) : s.resetBlock.host = s.host := rfl
@[simp] theorem resetBlock_turns (s : State) : s.resetBlock.turns = s.turns := rfl
@[simp] theorem resetBlock_responses (s : State) : s.resetBlock.responses = s.responses := rfl

@[simp] theorem Status.accept_busy (st : Status) : (st.accept).busy = true := rfl
@[simp] theorem Status.accept_done (st : Status) : (st.accept).done = false := rfl
@[simp] theorem Status.accept_err (st : Status) : (st.accept).err = false := rfl
@[simp] theorem Status.accept_errcode (st : Status) : (st.accept).errcode = 0#3 := rfl
@[simp] theorem Status.accept_outlen (st : Status) : (st.accept).outlen = st.outlen := rfl
@[simp] theorem Status.accept_tsv (st : Status) : (st.accept).tsv = st.tsv := rfl
@[simp] theorem Status.accept_dir (st : Status) : (st.accept).dir = st.dir := rfl
@[simp] theorem Status.accept_wign (st : Status) : (st.accept).wign = st.wign := rfl

@[simp] theorem Status.succeed_busy (st : Status) : (st.succeed).busy = false := rfl
@[simp] theorem Status.succeed_done (st : Status) : (st.succeed).done = true := rfl
@[simp] theorem Status.succeed_err (st : Status) : (st.succeed).err = false := rfl
@[simp] theorem Status.succeed_errcode (st : Status) : (st.succeed).errcode = 0#3 := rfl
@[simp] theorem Status.succeed_outlen (st : Status) : (st.succeed).outlen = st.outlen := rfl
@[simp] theorem Status.succeed_tsv (st : Status) : (st.succeed).tsv = st.tsv := rfl
@[simp] theorem Status.succeed_dir (st : Status) : (st.succeed).dir = st.dir := rfl
@[simp] theorem Status.succeed_wign (st : Status) : (st.succeed).wign = st.wign := rfl

@[simp] theorem Status.fail_busy (st : Status) (e : CmdError) : (st.fail e).busy = false := rfl
@[simp] theorem Status.fail_done (st : Status) (e : CmdError) : (st.fail e).done = true := rfl
@[simp] theorem Status.fail_err (st : Status) (e : CmdError) : (st.fail e).err = true := rfl
@[simp] theorem Status.fail_errcode (st : Status) (e : CmdError) : (st.fail e).errcode = e.code := rfl
@[simp] theorem Status.fail_outlen (st : Status) (e : CmdError) : (st.fail e).outlen = st.outlen := rfl
@[simp] theorem Status.fail_tsv (st : Status) (e : CmdError) : (st.fail e).tsv = st.tsv := rfl
@[simp] theorem Status.fail_dir (st : Status) (e : CmdError) : (st.fail e).dir = st.dir := rfl
@[simp] theorem Status.fail_wign (st : Status) (e : CmdError) : (st.fail e).wign = st.wign := rfl

@[simp] theorem Status.writeOneToClear_busy (st : Status) (v : Word) : (st.writeOneToClear v).busy = st.busy := rfl
@[simp] theorem Status.writeOneToClear_done (st : Status) (v : Word) : (st.writeOneToClear v).done = (if v.getLsbD 1 then false else st.done) := rfl
@[simp] theorem Status.writeOneToClear_err (st : Status) (v : Word) : (st.writeOneToClear v).err = st.err := rfl
@[simp] theorem Status.writeOneToClear_errcode (st : Status) (v : Word) : (st.writeOneToClear v).errcode = st.errcode := rfl
@[simp] theorem Status.writeOneToClear_outlen (st : Status) (v : Word) : (st.writeOneToClear v).outlen = st.outlen := rfl
@[simp] theorem Status.writeOneToClear_tsv (st : Status) (v : Word) : (st.writeOneToClear v).tsv = st.tsv := rfl
@[simp] theorem Status.writeOneToClear_dir (st : Status) (v : Word) : (st.writeOneToClear v).dir = st.dir := rfl
@[simp] theorem Status.writeOneToClear_wign (st : Status) (v : Word) : (st.writeOneToClear v).wign = (if v.getLsbD 24 then false else st.wign) := rfl

end Sys2Proof.Machine
end

