-- ==== Sys2Proof/Laws/Machine.lean ====
section
/-! SUPPORT. One lemma per shared operation and per meaning that says once everything it can do; proofs cite these instead of unfolding. -/

namespace Sys2Proof.Machine

theorem writeTarget_id (s : State) (v : Word) : s.writeTarget .id v = s := rfl
theorem writeTarget_dout (s : State) (i : Fin 4) (v : Word) : s.writeTarget (.dout i) v = s := rfl
theorem writeTarget_status (s : State) (v : Word) : s.writeTarget .status v = { s with status := s.status.writeOneToClear v } := rfl
theorem writeTarget_irqen (s : State) (v : Word) : s.writeTarget .irqen v = { s with ie := v.getLsbD 0 } := rfl

/-- While BUSY a write to CMD, DIN or TMEM only sets WIGN (R44). -/
theorem writeTarget_busy {s : State} (h : s.status.busy = true) {t : Target} (v : Word)
    (ht : t = .cmd ∨ (∃ i, t = .din i) ∨ ∃ o, t = .tmem o) : s.writeTarget t v = s.setWign := by
  rcases ht with rfl | ⟨i, rfl⟩ | ⟨o, rfl⟩ <;> simp [State.writeTarget, h]

theorem writeTarget_cmd {s : State} (h : s.status.busy = false) (v : Word) : s.writeTarget .cmd v = s.accept v := by
  simp [State.writeTarget, h]

theorem writeTarget_din {s : State} (h : s.status.busy = false) (i : Fin 4) (v : Word) :
    s.writeTarget (.din i) v = { s with din := setBlockWord s.din i v } := by
  simp [State.writeTarget, h]

theorem writeTarget_tmem {s : State} (h : s.status.busy = false) (o : Nat) (v : Word) :
    s.writeTarget (.tmem o) v = { s with tmem := s.tmem.writeWord o v }.setTsv false := by
  simp [State.writeTarget, h]

/-- Everything a host write can do: nothing, set WIGN while BUSY, accept, clear STATUS bits, set IE, replace DIN bytes, or write TMEM. -/
theorem hostWrite_cases (s : State) (a : HostAddr) (bits : Nat) (v : Word) :
    s.hostWrite a bits v = s ∨
    (s.status.busy = true ∧ s.hostWrite a bits v = s.setWign) ∨
    (s.status.busy = false ∧ s.hostWrite a bits v = s.accept v) ∨
    s.hostWrite a bits v = { s with status := s.status.writeOneToClear v } ∨
    s.hostWrite a bits v = { s with ie := v.getLsbD 0 } ∨
    (∃ i, s.status.busy = false ∧ s.hostWrite a bits v = { s with din := setBlockWord s.din i v }) ∨
    (∃ o, s.status.busy = false ∧ o % 4 = 0 ∧ o + 3 < Config.tmemBytes ∧
      s.hostWrite a bits v = { s with tmem := s.tmem.writeWord o v }.setTsv false) := by
  unfold State.hostWrite
  by_cases hb : isBusError a bits = true
  · simp [hb]
  rw [if_neg hb]
  cases hbusy : s.status.busy with
  | true =>
    cases ht : targetOf a with
    | id => exact .inl rfl
    | dout i => exact .inl rfl
    | unmapped => exact .inl rfl
    | status => exact .inr (.inr (.inr (.inl rfl)))
    | irqen => exact .inr (.inr (.inr (.inr (.inl rfl))))
    | cmd => exact .inr (.inl ⟨rfl, writeTarget_busy hbusy v (.inl rfl)⟩)
    | din i => exact .inr (.inl ⟨rfl, writeTarget_busy hbusy v (.inr (.inl ⟨i, rfl⟩))⟩)
    | tmem o => exact .inr (.inl ⟨rfl, writeTarget_busy hbusy v (.inr (.inr ⟨o, rfl⟩))⟩)
  | false =>
    cases ht : targetOf a with
    | id => exact .inl rfl
    | dout i => exact .inl rfl
    | unmapped => exact .inl rfl
    | status => exact .inr (.inr (.inr (.inl rfl)))
    | irqen => exact .inr (.inr (.inr (.inr (.inl rfl))))
    | cmd => exact .inr (.inr (.inl ⟨rfl, writeTarget_cmd hbusy v⟩))
    | din i => exact .inr (.inr (.inr (.inr (.inr (.inl ⟨i, rfl, writeTarget_din hbusy i v⟩)))))
    | tmem o =>
      refine .inr (.inr (.inr (.inr (.inr (.inr ⟨o, rfl, ?_, ?_, writeTarget_tmem hbusy o v⟩)))))
      all_goals
        have h4 : a.toNat % 4 = 0 := by
          by_contra h; exact hb (by simp [isBusError, h])
        have ho : o = a.toNat - 0x40000 ∧ 0x40000 ≤ a.toNat := by
          unfold targetOf at ht
          split_ifs at ht
          simp only [Target.tmem.injEq] at ht
          exact ⟨ht.symm, by omega⟩
        have := a.isLt
        have : Config.tmemBytes = 0x40000 := rfl
        omega

/-- σ and r run through the network: the walk computes WB (R55). -/
theorem walkRounds_spec (p : Wiring) (s : State) (n : Nat) :
    (State.walkRounds p n s.startWalk).sigma = netRounds s.image p n s.din ∧ (State.walkRounds p n s.startWalk).round = n + 1 ∧
      (State.walkRounds p n s.startWalk).image = s.image := by
  induction n with
  | zero => exact ⟨rfl, rfl, rfl⟩
  | succ n ih =>
    obtain ⟨h1, h2, h3⟩ := ih
    refine ⟨?_, ?_, ?_⟩
    · simp only [State.walkRounds, walkRound_sigma, h1, h2, h3, netRounds]
    · simp only [State.walkRounds, walkRound_round, h2]
    · simp only [State.walkRounds, walkRound_image, h3]

theorem evalBlock_eq_wb (s : State) : s.evalBlock = wb s.image (wiringOf (dirb s.image)) s.din := by
  obtain ⟨h1, h2, h3⟩ := walkRounds_spec (wiringOf (dirb s.image)) s (Config.nRounds - 1)
  rw [State.evalBlock, State.walkOutput, h1, h2, h3]; rfl

theorem execEval_ok {s : State} (h : hdrOK s.image = true) :
    execEval s = .next ((s.output s.evalBlock 16#5).noteHeader.complete).dropWalk := by
  simp [execEval, h]

theorem execEval_bad {s : State} (h : hdrOK s.image = false) : execEval s = .next s.refuseHeader.dropWalk := by
  simp [execEval, h]

theorem execCheck_ok {s : State} (h : hdrOK s.image = true) : execCheck s = .next s.noteHeader.complete := by
  simp [execCheck, h]

theorem execCheck_bad {s : State} (h : hdrOK s.image = false) : execCheck s = .next s.refuseHeader := by
  simp [execCheck, h]

theorem execPad_ok {len : BitVec 5} (h : lenValue len ≤ 15) (s : State) :
    execPad len s = .next (s.output (padBlock s.din (lenValue len)) 16#5).complete := by
  simp [execPad, h]

theorem execPad_bad {len : BitVec 5} (h : ¬ lenValue len ≤ 15) (s : State) : execPad len s = .next (s.raiseError .illegalCommand) := by
  simp [execPad, h]

theorem execUnpad_ok {s : State} (h : padOK s.din = true) :
    execUnpad s = .next (s.output (unpadBlock s.din) (BitVec.ofNat 5 (16 - s.din[15].toNat))).complete := by
  simp [execUnpad, h]

theorem execUnpad_bad {s : State} (h : padOK s.din = false) : execUnpad s = .next (s.raiseError .invalidPadding) := by
  simp [execUnpad, h]

theorem padOK_iff (x : Block) :
    padOK x = true ↔ 1 ≤ x[15].toNat ∧ x[15].toNat ≤ 16 ∧ ∀ k : Lane, 16 - x[15].toNat ≤ k.val → x[k] = x[15] := by
  simp only [padOK, decide_eq_true_eq]

/-- Every command completes: what each meaning answers, for any state. -/
theorem exec_completes (i : Instr) (s : State) :
    ∃ t, exec i s = .next t ∧ t.status.busy = false ∧ t.status.done = true ∧ t.ie = s.ie ∧ t.lcmd = s.lcmd ∧ t.din = s.din ∧ t.tmem = s.tmem ∧
      t.era = s.era ∧ t.host = s.host ∧ t.turns = s.turns ∧ t.responses = s.responses ∧ t.status.wign = s.status.wign := by
  cases i with
  | eval => by_cases h : hdrOK s.image = true <;> simp [exec, execEval, h]
  | pad len => by_cases h : lenValue len ≤ 15 <;> simp [exec, execPad, h]
  | unpad => by_cases h : padOK s.din = true <;> simp [exec, execUnpad, h]
  | check => by_cases h : hdrOK s.image = true <;> simp [exec, execCheck, h]

/-- The engine's step while BUSY is the run of the decoded command, or IllegalCommand. -/
theorem engineTurn_ok {s : State} {i : Instr} (hb : s.status.busy = true) (hd : decode s.lcmd = .ok i) : engineTurn s = exec i s := by
  simp [engineTurn, hb, hd]

theorem engineTurn_illegal {s : State} {e : DecodeReject} (hb : s.status.busy = true) (hd : decode s.lcmd = .error e) :
    engineTurn s = .next (s.raiseError .illegalCommand) := by
  simp [engineTurn, hb, hd]

theorem engineTurn_idle {s : State} (hb : s.status.busy = false) : engineTurn s = .next s := by
  simp [engineTurn, hb]

theorem step_eq (s : State) : step s = takeTurn s.turn s.popTurn := rfl

/-- The engine's turn with a command in flight always completes it. -/
theorem engineTurn_completes {s : State} (hb : s.status.busy = true) :
    ∃ t, engineTurn s = .next t ∧ t.status.busy = false ∧ t.status.done = true ∧ t.ie = s.ie ∧ t.lcmd = s.lcmd ∧ t.din = s.din ∧ t.tmem = s.tmem ∧
      t.era = s.era ∧ t.host = s.host ∧ t.turns = s.turns ∧ t.responses = s.responses ∧ t.status.wign = s.status.wign := by
  cases hd : decode s.lcmd with
  | ok i => rw [engineTurn_ok hb hd]; exact exec_completes i s
  | error e => rw [engineTurn_illegal hb hd]; exact ⟨_, rfl, rfl, rfl, rfl, rfl, rfl, rfl, rfl, rfl, rfl, rfl, rfl⟩

/-- Everything a host's step can do: nothing to do, one read, one write, one poll that ends or goes on, or a poll that is stuck. -/
theorem hostTurn_cases (s : State) :
    (s.host = [] ∧ hostTurn s = .next s) ∨
    (∃ a bits rest, s.host = .read a bits :: rest ∧ hostTurn s = .next ({ s with host := rest }.respond (s.hostRead a bits))) ∨
    (∃ a bits v rest, s.host = .write a bits v :: rest ∧
      hostTurn s = .next (({ s with host := rest }.hostWrite a bits v).respond { error := isBusError a bits, data := none })) ∨
    (∃ a m v rest, s.host = .poll a m v :: rest ∧ pollDone (s.hostRead a 32) m v = true ∧
      hostTurn s = .next ({ s with host := rest }.respond (s.hostRead a 32))) ∨
    (∃ a m v rest, s.host = .poll a m v :: rest ∧ pollDone (s.hostRead a 32) m v = false ∧
      (s.status.busy || s.turns.contains .reset) = true ∧ hostTurn s = .next (s.respond (s.hostRead a 32))) ∨
    (∃ a m v rest, s.host = .poll a m v :: rest ∧ pollDone (s.hostRead a 32) m v = false ∧
      (s.status.busy || s.turns.contains .reset) = false ∧ hostTurn s = .fault .pollNeverEnds) := by
  cases hh : s.host with
  | nil => exact .inl ⟨rfl, by simp [hostTurn, hh]⟩
  | cons o rest =>
    cases o with
    | read a bits => exact .inr (.inl ⟨a, bits, rest, rfl, by simp [hostTurn, hh]⟩)
    | write a bits v => exact .inr (.inr (.inl ⟨a, bits, v, rest, rfl, by simp [hostTurn, hh]⟩))
    | poll a m v =>
      cases hp : pollDone (s.hostRead a 32) m v with
      | true => exact .inr (.inr (.inr (.inl ⟨a, m, v, rest, rfl, hp, by simp [hostTurn, hh, hp]⟩)))
      | false =>
        cases hw : (s.status.busy || s.turns.contains .reset) with
        | true => exact .inr (.inr (.inr (.inr (.inl ⟨a, m, v, rest, rfl, hp, rfl, by simp only [hostTurn, hh, hp, hw]; rfl⟩))))
        | false => exact .inr (.inr (.inr (.inr (.inr ⟨a, m, v, rest, rfl, hp, rfl, by simp only [hostTurn, hh, hp, hw]; rfl⟩))))

/-- `withFetchWord` makes the engine's turn the next one. -/
theorem withFetchWord_step (s : State) (nbits w : Nat) :
    step (s.withFetchWord nbits w) = engineTurn { s.accept (BitVec.ofNat 32 (w % 2 ^ nbits)) with turns := s.turns } := rfl

end Sys2Proof.Machine
end

