-- ==== Sys2Proof/Laws/PerInstr.lean ====
section
/-! SUPPORT. What holds of every command as syntax, one lemma per constructor (spec/30_encoding.md R111, R112). -/

namespace Sys2Proof.Laws.EncodingFields

/-- The three fields of the encoded word: OP the opcode, LEN the operand, RSVD zero. -/
def Statement (i : Instr) : Prop :=
  opField (encode i) = opcode i ∧ lenField (encode i) = lenOperand i ∧ rsvdField (encode i) = 0#23

theorem eval : Statement .eval := ⟨rfl, rfl, rfl⟩

theorem pad (len : BitVec 5) : Statement (.pad len) := by
  refine ⟨?_, ?_, ?_⟩ <;> revert len <;> decide

theorem unpad : Statement .unpad := ⟨rfl, rfl, rfl⟩

theorem check : Statement .check := ⟨rfl, rfl, rfl⟩

end Sys2Proof.Laws.EncodingFields
end

