-- ==== Sys2Proof/Laws/Run.lean ====
section
/-! SUPPORT. Runs of several steps, one step at a time. -/

namespace Sys2Proof.Machine

/-- A run of any machine whose first step goes on is the run from the next state. -/
theorem runOf_of_next (M : Host.Core) {s t : M.State} {n : Nat} (h : M.step s = .next t) : M.run (n + 1) s = M.run n t := by
  rw [Host.Core.run, h]

/-- The same of this machine. Use as `(run_of_next h).trans ?_`. -/
theorem run_of_next {s t : State} {n : Nat} (h : step s = .next t) : Host.Core.run core (n + 1) s = Host.Core.run core n t :=
  runOf_of_next core h

/-- A host write past the end of the interleaving, with no command in flight. -/
theorem step_write_idle {s : State} {a : HostAddr} {bits : Nat} {v : Word} {rest : List HostOp} (ht : s.turns = []) (hb : s.status.busy = false)
    (hh : s.host = .write a bits v :: rest) :
    step s = .next (({ s with host := rest }.hostWrite a bits v).respond { error := isBusError a bits, data := none }) := by
  cases s
  simp only at ht hb hh
  subst ht hh
  simp [step, State.turn, hb, State.popTurn, takeTurn, hostTurn]

/-- A host read past the end of the interleaving, with no command in flight. -/
theorem step_read_idle {s : State} {a : HostAddr} {bits : Nat} {rest : List HostOp} (ht : s.turns = []) (hb : s.status.busy = false)
    (hh : s.host = .read a bits :: rest) :
    step s = .next ({ s with host := rest }.respond (s.hostRead a bits)) := by
  cases s
  simp only at ht hb hh
  subst ht hh
  simp [step, State.turn, hb, State.popTurn, takeTurn, hostTurn]

/-- The engine's turn past the end of the interleaving, with a command in flight. -/
theorem step_busy_default {s : State} (ht : s.turns = []) (hb : s.status.busy = true) : step s = engineTurn s := by
  cases s
  simp only at ht hb
  subst ht
  simp [step, State.turn, hb, takeTurn, State.popTurn]

end Sys2Proof.Machine
end

