-- ==== Sys2Proof/Tests/Slice0.lean ====
section
/-! SUPPORT. The model's own tests: words written from the encoding tables, vectors of spec/95_test_vectors.md (each named), and for every statement with
hypotheses a witness that meets them. Expected values come from spec/, never from the model. -/

namespace Sys2Proof.Tests

open Sys2Proof Sys2Proof.Machine

set_option Elab.async false

/-- A block from its 16 bytes written as one hexadecimal number, byte 0 first (R9). -/
def blk (n : Nat) : Block := Vector.ofFn fun k : Lane => BitVec.ofNat 8 (n >>> (8 * (15 - k.val)))

/-- A header in TMEM with direction byte `d` (R83). -/
def header (d : Byte) : Memory := (List.range 32).zip (headerBytes d)

/-- A command in flight from STATUS = 0 with TMEM holding `m` and DIN `x`; it is the engine's turn. -/
def inFlight (v : Word) (m : Memory) (x : Block) : State :=
  { State.reset with status := Status.zero.accept, lcmd := v, tmem := m, din := x }

/-- A host about to issue one operation, with STATUS `st`. -/
def issuing (st : Status) (o : HostOp) : State := { State.reset with status := st, host := [o], turns := [.host] }

/-- The STATUS word of the next state. -/
def statusOf (o : Host.Outcome State Fault Refusal) : Option Word :=
  match o with
  | .next s => some s.status.toWord
  | .fault _ => none
  | .refused _ => none

/-- DOUT of the next state. -/
def doutOf (o : Host.Outcome State Fault Refusal) : Option Block :=
  match o with
  | .next s => some s.dout
  | .fault _ => none
  | .refused _ => none

/-- The latest response of the next state. -/
def responseOf (o : Host.Outcome State Fault Refusal) : Option Response :=
  match o with
  | .next s => s.responses.head?
  | .fault _ => none
  | .refused _ => none

/-- The key KS of spec/95_test_vectors.md. -/
def keyKS : Block := blk 0x000102030405060708090a0b0c0d0e0f

/-- An artifact with one-byte SUB and four-byte MC entries given by formulas. -/
def synthetic (d : Byte) (sub : Nat → Nat → Byte → Byte) (mc : Nat → Nat → Byte → Word) : Image :=
  artifact d { sub := fun r j x => sub r j.val x, mc := fun r j y => mc r j.val y }

/-- `y << 8*(j mod 4)`. -/
def placed (j : Nat) (y : Byte) : Word := BitVec.setWidth 32 y <<< (8 * (j % 4))

/-! ### Well-formedness and decoding (R111, R112, R116, R118; 95 section 2.6) -/

theorem test_wellFormed_refuses_pad_16 : (Instr.pad 16#5).wellFormed = false := by decide
theorem test_wellFormed_refuses_pad_31 : (Instr.pad 31#5).wellFormed = false := by decide
theorem test_wellFormed_admits_pad_15 : (Instr.pad 15#5).wellFormed = true := by decide

/-- RSVD 31:9, LEN 8:4, OP 3:0, each field written out. -/
theorem test_decode_eval : decodeTableWord 32 0b00000000000000000000000_00000_0001 = some .eval := by decide
theorem test_decode_pad : decodeTableWord 32 0b00000000000000000000000_01011_0010 = some (.pad 11#5) := by decide
theorem test_decode_unpad : decodeTableWord 32 0b00000000000000000000000_00000_0011 = some .unpad := by decide
theorem test_decode_check : decodeTableWord 32 0b00000000000000000000000_00000_0100 = some .check := by decide

theorem test_decode_illegal_words :
    [0x00000000#32, 0x00000011#32, 0x00000102#32, 0x000001F2#32, 0x00000013#32, 0x00000104#32, 0x00000005#32, 0x0000000F#32, 0x00000201#32,
      0x80000001#32, 0xFFFFFFFF#32].all (fun v => (decode v).toOption.isNone) = true := by decide

theorem test_decode_names_its_rejections :
    decode 0x80000001#32 = .error .rsvdNonzero ∧ decode 0x0000000F#32 = .error .reservedOp ∧
      decode 0x00000013#32 = .error .lenNonzero ∧ decode 0x00000102#32 = .error .padLenOutOfRange := by decide

/-! ### Commands through `step` -/

/-- V-P row 15: DOUT and STATUS. -/
theorem test_pad_15 :
    doutOf (step (inFlight 0x000000F2#32 [] (blk 0xa0a1a2a3a4a5a6a7a8a9aaabacadaeaf))) = some (blk 0xa0a1a2a3a4a5a6a7a8a9aaabacadae01) ∧
      statusOf (step (inFlight 0x000000F2#32 [] (blk 0xa0a1a2a3a4a5a6a7a8a9aaabacadaeaf))) = some 0x00001002#32 := by decide +kernel

/-- V-P row 0: a full block of 0x10. -/
theorem test_pad_0 :
    doutOf (step (inFlight 0x00000002#32 [] (blk 0xa0a1a2a3a4a5a6a7a8a9aaabacadaeaf))) = some (blk 0x10101010101010101010101010101010) := by
  decide +kernel

/-- V-U5: n = 15, DIN[0] is not checked. -/
theorem test_unpad_valid :
    doutOf (step (inFlight 0x00000003#32 [] (blk 0x0f0f0f0f0f0f0f0f0f0f0f0f0f0f0f0f))) = some (blk 0x0f000000000000000000000000000000) ∧
      statusOf (step (inFlight 0x00000003#32 [] (blk 0x0f0f0f0f0f0f0f0f0f0f0f0f0f0f0f0f))) = some 0x00000102#32 := by decide +kernel

/-- V-U6, V-U9 and V-U12. -/
theorem test_unpad_invalid :
    statusOf (step (inFlight 0x00000003#32 [] (blk 0xa0a1a2a3a4a5a6a7a8a9aaabacad0302))) = some 0x00000016#32 ∧
      statusOf (step (inFlight 0x00000003#32 [] (blk 0x11101010101010101010101010101010))) = some 0x00000016#32 ∧
      statusOf (step (inFlight 0x00000003#32 [] zeroBlock)) = some 0x00000016#32 := by decide +kernel

/-- V-C1 and V-C2. -/
theorem test_check_valid :
    statusOf (step (inFlight 0x00000004#32 (header 0) zeroBlock)) = some 0x00010002#32 ∧
      statusOf (step (inFlight 0x00000004#32 (header 1) zeroBlock)) = some 0x00030002#32 := by decide +kernel

/-- V-C4: the header of V-E10, from STATUS = 0x00031002. -/
theorem test_check_malformed :
    statusOf (step { inFlight 0x00000004#32 (header 2) zeroBlock with
      status := { Status.zero.accept with outlen := 16#5, tsv := true, dir := true } }) = some 0x0002100E#32 := by decide +kernel

/-- The STATUS of V-E1 and V-E2: the header decides it, whatever the tables hold (R144). -/
theorem test_eval_status :
    statusOf (step (inFlight 0x00000001#32 (header 0) zeroBlock)) = some 0x00011002#32 ∧
      statusOf (step (inFlight 0x00000001#32 (header 1) zeroBlock)) = some 0x00031002#32 := by decide +kernel

/-- V-E15, and V-E14's reserved byte 31. -/
theorem test_eval_malformed :
    statusOf (step (inFlight 0x00000001#32 (header 2) zeroBlock)) = some 0x0000000E#32 ∧
      statusOf (step (inFlight 0x00000001#32 ((header 0).writeByte 31 1) zeroBlock)) = some 0x0000000E#32 := by decide +kernel

/-- V-P16. -/
theorem test_illegal_word : statusOf (step (inFlight 0x00000102#32 [] zeroBlock)) = some 0x0000001E#32 := by decide +kernel

/-- The step right after `withFetchWord` runs the accepted command (V-U12, V-P row 0). -/
theorem test_withFetchWord :
    statusOf (step (State.reset.withFetchWord 32 0x00000003)) = some 0x00000016#32 ∧
      doutOf (step (State.reset.withFetchWord 32 0x00000002)) = some (blk 0x10101010101010101010101010101010) := by decide +kernel

/-! ### The network (95 section 2.2) and the reference table-sets (95 section 2.1) -/

/-- V-E8f: the XOR of four MC entries, and the byte order of a column. -/
theorem test_network_columnXor :
    wb (synthetic 0 (fun _ _ x => x) fun r j y => if r = 1 then BitVec.setWidth 32 y * 0x01010101#32 else placed j y) wiringE
      (blk 0x01020408102040800305060911224488) = blk 0xaf59a55a59a55aafa55aaf595aaf59a5 := by decide +kernel

/-- V-E8h: the lane split under P_D. -/
theorem test_network_laneSplit :
    wb (synthetic 1 (fun _ _ x => x) fun _ j y => placed (j + 1) y) wiringD keyKS = blk 0x070c050e0b0009020f040d060308010a := by decide +kernel

/-- V-E8e: round 10 has no MC stage. -/
theorem test_network_lastRound :
    wb (synthetic 0 (fun r j x => if r ≤ 9 then x else BitVec.ofNat 8 j) fun _ j y => placed j y) wiringE zeroBlock = keyKS := by decide +kernel

/-- V-E1 on the AES side of the contract. -/
theorem test_aes_encrypt :
    Aes.encrypt keyKS (blk 0x00112233445566778899aabbccddeeff) = blk 0x69c4e0d86a7b0430d8cdb78070b4c55a := by decide +kernel

/-- V-E4 on the AES side of the contract. -/
theorem test_aes_decrypt :
    Aes.decrypt (blk 0x2b7e151628aed2a6abf7158809cf4f3c) (blk 0x3925841d02dc09fbdc118597196a0b32) = blk 0x3243f6a8885a308d313198a2e0370734 := by
  decide +kernel

/-- The rows R162 lists for M and Mi, row by row. -/
theorem test_mixMatrix_rows :
    Aes.mixMatrix[0].toList = [2, 3, 1, 1] ∧ Aes.mixMatrix[1].toList = [1, 2, 3, 1] ∧
      Aes.mixMatrix[2].toList = [1, 1, 2, 3] ∧ Aes.mixMatrix[3].toList = [3, 1, 1, 2] := by decide +kernel

theorem test_invMixMatrix_rows :
    Aes.invMixMatrix[0].toList = [14, 11, 13, 9] ∧ Aes.invMixMatrix[1].toList = [9, 14, 11, 13] ∧
      Aes.invMixMatrix[2].toList = [13, 9, 14, 11] ∧ Aes.invMixMatrix[3].toList = [11, 13, 9, 14] := by decide +kernel

/-- Table spot values of 95 section 2.1: SUB[1][5][0x00], SUB[10][15][0xff] and MC[1][0][0x80], both directions. -/
theorem test_referenceEntries :
    subEntry (refImage .encrypt keyKS) 1 5 0 = 0x01#8 ∧ subEntry (refImage .decrypt keyKS) 1 5 0 = 0xe3#8 ∧
      subEntry (refImage .encrypt keyKS) 10 15 0xff#8 = 0x3e#8 ∧ subEntry (refImage .decrypt keyKS) 10 15 0xff#8 = 0xf4#8 ∧
      mcEntry (refImage .encrypt keyKS) 1 0 0x80#8 = 0x9b80801b#32 ∧ mcEntry (refImage .decrypt keyKS) 1 0 0x80#8 = 0xf7daec41#32 := by
  decide +kernel

/-- The round key table of 95 section 2.1. -/
theorem test_roundKey : Aes.roundKey keyKS 10 = blk 0x13111d7fe3944a17f307a78b4d2b30c5 := by decide +kernel

/-- Host words of 95 section 2.1: 0x40020 and 0x6E01C. -/
theorem test_referenceWords :
    memRead4 (refImage .encrypt keyKS) 0x20 = 0x7B777C63#32 ∧ memRead4 (refImage .decrypt keyKS) 0x20 = 0x7CE33982#32 ∧
      memRead4 (refImage .encrypt keyKS) 0x2E01C = 0xE51AFFFF#32 ∧ memRead4 (refImage .decrypt keyKS) 0x2E01C = 0x8DA39746#32 := by decide +kernel

/-- SUBOFF and MCOFF of 95 section 2.1. -/
theorem test_tableOffsets :
    subOff 1 15 = 0x00F20 ∧ subOff 10 0 = 0x09020 ∧ mcOff 1 0 = 0x0A020 ∧ mcOff 9 15 = 0x2DC20 := by decide

/-! ### Host accesses (95 section 2.7) -/

/-- STATUS = 0x0101101E, as in V-H13. -/
def statusH13 : Status :=
  { busy := false, done := true, err := true, errcode := 3#3, outlen := 16#5, tsv := true, dir := false, wign := true }

/-- V-H13. -/
theorem test_statusWrite :
    statusH13.toWord = 0x0101101E#32 ∧
      statusOf (step (issuing statusH13 (.write 0x00008#19 32 0xFFFFFFFF#32))) = some 0x0001101C#32 := by decide +kernel

/-- V-H8 (a bus error is checked before BUSY) and V-H9. -/
theorem test_busyWrites :
    statusOf (step (issuing Status.zero.accept (.write 0x00011#19 32 0#32))) = some 0x00000001#32 ∧
      responseOf (step (issuing Status.zero.accept (.write 0x00011#19 32 0#32))) = some { error := true, data := none } ∧
      statusOf (step (issuing Status.zero.accept (.write 0x00010#19 32 0xFFFFFFFF#32))) = some 0x01000001#32 := by decide +kernel

/-- V-H1, V-H4, V-H5 and V-H7. -/
theorem test_reads :
    responseOf (step (issuing Status.zero (.read 0x00000#19 32))) = some { error := false, data := some 0x57420100#32 } ∧
      responseOf (step (issuing Status.zero (.read 0x00030#19 32))) = some { error := true, data := some 0#32 } ∧
      responseOf (step (issuing Status.zero (.read 0x3FFFC#19 32))) = some { error := true, data := some 0#32 } ∧
      responseOf (step (issuing Status.zero (.read 0x00000#19 8))) = some { error := true, data := some 0#32 } := by decide +kernel

/-- V-H12: TSV falls at a TMEM write of the same value. -/
theorem test_tmemWriteClearsTsv :
    statusOf (step { issuing { Status.zero with tsv := true } (.write 0x40000#19 32 0x45414257#32) with tmem := header 0 }) = some 0x00000000#32 := by
  decide +kernel

/-- The LDBLK words of the worked program P1. -/
theorem test_ldblk :
    HostProgram.ldblk (blk 0x00112233445566778899aabbccddeeff) =
      [.write 0x00010#19 32 0x33221100#32, .write 0x00014#19 32 0x77665544#32, .write 0x00018#19 32 0xBBAA9988#32,
        .write 0x0001C#19 32 0xFFEEDDCC#32] := by decide +kernel

/-- The RDBLK words of the worked program P1. -/
theorem test_rdblk :
    HostProgram.rdblkBlock #v[0xD8E0C469#32, 0x30047B6A#32, 0x80B7CDD8#32, 0x5AC5B470#32] = blk 0x69c4e0d86a7b0430d8cdb78070b4c55a := by
  decide +kernel

/-- V-R2: reset abandons the command in flight. -/
theorem test_reset_abandons :
    statusOf (step { inFlight 0x00000001#32 (header 0) zeroBlock with turns := [.reset] }) = some 0x00000000#32 := by decide +kernel

/-! ### Witnesses: for each statement with hypotheses, concrete values that meet them -/

/-- A command in flight. -/
def flying (v : Word) : State := inFlight v (header 0) (blk 0xa0a1a2a3a4a5a6a7a8a9aaabacad0202)

/-- The state after a step that goes on. -/
def nextOf (s : State) : State :=
  match step s with
  | .next t => t
  | .fault _ => s
  | .refused _ => s

theorem witness_DecodeAndEncodeAgree :
    (Instr.pad 15#5).WellFormed ∧ (Instr.pad 0#5).WellFormed ∧ decode 0x00000004#32 = .ok .check := by decide

theorem witness_LegalWordsAreExactlyNineteen_and_CommandPseudoOps : (0 : Nat) ≤ 15 ∧ (15 : Nat) ≤ 15 := by decide

/-- Words of every class (a) to (d) of R118. -/
def illegalSamples : Vector Word 7 :=
  #v[0x00000201#32, 0x00000000#32, 0x00000005#32, 0x00000011#32, 0x00000013#32, 0x000001F4#32, 0x00000102#32]

theorem witness_IllegalWordsCompleteWithIllegalCommand :
    ∀ i : Fin 7, (flying illegalSamples[i]).turn = .engine ∧ (flying illegalSamples[i]).status.busy = true ∧
      IllegalWord (flying illegalSamples[i]).lcmd := by
  unfold IllegalWord
  decide +kernel

theorem witness_StepRunsTheDecodedCommand :
    (flying 0xF2#32).turn = .engine ∧ (flying 0xF2#32).status.busy = true ∧ decode (flying 0xF2#32).lcmd = .ok (.pad 15#5) := by decide

theorem witness_EngineTurnCompletesExactlyWhenBusy :
    ((flying 0x1#32).turn = .engine ∧ (flying 0x1#32).status.busy = true) ∧
      (({ State.reset with turns := [.engine] } : State).turn = .engine ∧ ({ State.reset with turns := [.engine] } : State).status.busy = false) := by
  decide

theorem witness_TurnFollowsTheInterleaving :
    ((issuing Status.zero (.read 0x00008#19 32)).turn = .host ∧ (issuing Status.zero (.write 0x00008#19 32 2#32)).turn = .host) ∧
    (∃ t ts, ({ State.reset with turns := [.engine] } : State).turns = t :: ts) ∧
      ((flying 0x1#32).turns = [] ∧ (flying 0x1#32).status.busy = true) ∧ (State.reset.turns = [] ∧ State.reset.status.busy = false) :=
  ⟨by decide, ⟨_, _, rfl⟩, by decide, by decide⟩

/-- A host that polls an idle block for DONE. -/
theorem witness_StepStopsOnlyOnHopelessPoll :
    step (issuing Status.zero (.poll 0x00008#19 3#32 2#32)) = .fault .pollNeverEnds := rfl

/-- POLL satisfied; POLL to be repeated with a command in flight; POLL to be repeated with a reset to come. -/
theorem witness_PollRepeatsUntilItsCondition :
    (((issuing { Status.zero with done := true } (.poll 0x00008#19 3#32 2#32)).hostRead 0x00008#19 32).data.getD 0#32 &&& 3#32 = 2#32) ∧
      ((issuing Status.zero.accept (.poll 0x00008#19 3#32 2#32)).turn = .host ∧
        ((issuing Status.zero.accept (.poll 0x00008#19 3#32 2#32)).hostRead 0x00008#19 32).data.getD 0#32 &&& 3#32 ≠ 2#32 ∧
        (issuing Status.zero.accept (.poll 0x00008#19 3#32 2#32)).status.busy = true) ∧
      (({ issuing Status.zero (.poll 0x00030#19 1#32 1#32) with turns := [.host, .reset] } : State).hostRead 0x00030#19 32).data.getD 0#32 &&& 1#32 ≠ 1#32 ∧
      Turn.reset ∈ ({ issuing Status.zero (.poll 0x00030#19 1#32 1#32) with turns := [.host, .reset] } : State).turns.tail := by decide +kernel

/-- Both headers that pass (EVAL, CHECK, HeaderReadsAsTheListedHostWords). -/
theorem witness_header_passes :
    hdrOK (inFlight 0x1#32 (header 0) zeroBlock).image = true ∧ hdrOK (inFlight 0x4#32 (header 1) zeroBlock).image = true := by decide +kernel

/-- A header that fails (EVAL, CHECK). -/
theorem witness_header_fails :
    hdrOK (inFlight 0x1#32 (header 2) zeroBlock).image = false ∧
      hdrOK (inFlight 0x1#32 ((header 0).writeByte 31 1) zeroBlock).image = false := by decide +kernel

theorem witness_ZeroTablesGiveZeroOutput :
    ∀ a, 0x20 ≤ a → a < Config.tsBytes → (fun _ => 0x00#8 : Image) a = 0x00#8 := fun _ _ _ => rfl

theorem witness_IdentityTablesGiveTheWiringSquared :
    (∀ r (j : Lane) x, 1 ≤ r → r ≤ 10 → subEntry (synthetic 0 (fun _ _ x => x) fun _ j y => placed j y) r j.val x = x) ∧
      ∀ r (j : Lane) y, 1 ≤ r → r ≤ 9 →
        mcEntry (synthetic 0 (fun _ _ x => x) fun _ j y => placed j y) r j.val y = BitVec.setWidth 32 y <<< (8 * (j.val % 4)) :=
  ⟨fun _ j x h1 h2 => subEntry_artifact 0 _ h1 h2 j x, fun _ j y h1 h2 => mcEntry_artifact 0 _ h1 h2 j y⟩

/-- Two images that differ in the first MC table of round 9 only, and lanes outside its column. -/
theorem witness_McTableTouchesOnlyItsColumn :
    (∀ (j : Lane) x, subEntry (synthetic 0 (fun _ _ x => x) fun _ _ _ => 0) 9 j.val x =
        subEntry (synthetic 0 (fun _ _ x => x) fun _ j _ => if j = 0 then 1 else 0) 9 j.val x) ∧
      (∀ (j : Lane) y, j ≠ 0 → mcEntry (synthetic 0 (fun _ _ x => x) fun _ _ _ => 0) 9 j.val y =
        mcEntry (synthetic 0 (fun _ _ x => x) fun _ j _ => if j = 0 then 1 else 0) 9 j.val y) ∧
      (4 : Lane).val / 4 ≠ (0 : Lane).val / 4 := by
  refine ⟨fun j x => ?_, fun j y hj => ?_, by decide⟩
  · simp only [synthetic, subEntry_artifact _ _ (show 1 ≤ 9 by decide) (show 9 ≤ 10 by decide)]
  · simp only [synthetic, mcEntry_artifact _ _ (show 1 ≤ 9 by decide) (show 9 ≤ 9 by decide)]
    exact (if_neg fun h => hj (Fin.ext h)).symm

theorem netOps_offsets_ge (t : Image) (p : Wiring) (b : Block) : ∀ a ∈ (netOps t p b).flatMap NetOp.offsets, 0x20 ≤ a := by
  have hs : ∀ r j n, 0x20 ≤ subOff r j + n := fun r j n => by simp only [subOff]; omega
  have hm : ∀ r j n, 0x20 ≤ mcOff r j + n := fun r j n => by simp only [mcOff]; omega
  intro a ha
  simp only [netOps, roundOps, subOps, columnOps, List.mem_flatMap, List.mem_append, List.mem_map, List.mem_cons, List.not_mem_nil, or_false] at ha
  obtain ⟨o, ho, ha⟩ := ha
  rcases ho with ⟨_, _, (rfl | ⟨_, _, rfl⟩) | ⟨_, _, rfl | rfl | rfl | rfl | rfl⟩⟩ | rfl | ⟨_, _, rfl⟩ <;>
    simp only [NetOp.offsets, List.mem_cons, List.not_mem_nil, or_false, Nat.add_assoc] at ha <;>
    first
    | (rw [ha]; exact hs _ _ _)
    | (rcases ha with ha | ha | ha | ha <;> rw [ha] <;> exact hm _ _ _)

/-- Two images that differ in the header only: no offset an evaluation reads lies there. -/
theorem witness_NetworkReadsOnlyTheArtifact :
    ∀ a ∈ (netOps (fun _ => 0) wiringE zeroBlock).flatMap NetOp.offsets,
      (fun _ => 0 : Image) a = (fun a => if a < 0x20 then 1 else 0 : Image) a := by
  intro a ha
  have h := netOps_offsets_ge _ _ _ a ha
  exact (if_neg (by omega)).symm

/-- Two states that differ in IRQEN, LCMD, DOUT and a byte past the artifact. -/
theorem witness_ResultsDependOnlyOnDinAndTables :
    (flying 0x1#32).din = ({ flying 0x4#32 with ie := true, dout := keyKS, tmem := header 0 ++ [(Config.tsBytes, 1)] } : State).din ∧
      ∀ a, a < Config.tsBytes →
        (flying 0x1#32).image a = ({ flying 0x4#32 with ie := true, dout := keyKS, tmem := header 0 ++ [(Config.tsBytes, 1)] } : State).image a := by
  refine ⟨rfl, fun a ha => ?_⟩
  show ((header 0).written a).getD (Config.tmemInit 0 a) = ((header 0 ++ [(Config.tsBytes, 1)]).written a).getD (Config.tmemInit 0 a)
  have h : ∀ (m : Memory), Memory.written (m ++ [(Config.tsBytes, 1)]) a = m.written a := by
    intro m
    induction m with
    | nil => exact if_neg (by omega)
    | cons c m ih => simp only [List.cons_append, Memory.written, ih]
  rw [h]

/-- The reference table-sets of the all-zero key, one direction each. -/
theorem zeroKey_conforms_encrypt : Conforms (refImage .encrypt zeroBlock) zeroBlock .encrypt := by
  refine ⟨hdrOK_refImage _ _, rfl, fun b => ?_⟩
  have hr : ∀ n, n ≤ 9 → Aes.encryptRounds zeroBlock b n =
      Aes.addRoundKey (netRounds (refImage .encrypt zeroBlock) wiringE n b) (Aes.roundKey zeroBlock n) := by
    intro n hn
    induction n with
    | zero => rfl
    | succ n ih =>
      rw [Aes.encryptRounds, ih (by omega), netRounds, shiftRows_subBytes]
      exact congrArg (Aes.addRoundKey · _) (refImage_netRound .encrypt zeroBlock (by omega) hn _).symm
  show lastRound _ _ 10 _ = Aes.encrypt zeroBlock b
  rw [refImage_lastRound, Aes.encrypt, hr 9 (by omega), shiftRows_subBytes]
  rfl

theorem zeroKey_conforms_decrypt : Conforms (refImage .decrypt zeroBlock) zeroBlock .decrypt := by
  refine ⟨hdrOK_refImage _ _, rfl, fun b => ?_⟩
  have hr : ∀ n, n ≤ 9 → Aes.decryptRounds zeroBlock b n =
      Aes.addRoundKey (netRounds (refImage .decrypt zeroBlock) wiringD n b) (refKey .decrypt zeroBlock n) := by
    intro n hn
    induction n with
    | zero => rfl
    | succ n ih =>
      have h2 : Aes.invMixColumns (Aes.roundKey zeroBlock (9 - n)) = refKey .decrypt zeroBlock (n + 1) := by
        rw [show 9 - n = 10 - (n + 1) by omega]; rfl
      rw [Aes.decryptRounds, ih (by omega), netRounds, invSubBytes_invShiftRows,
        show ∀ x y, Aes.invMixColumns (Aes.addRoundKey x y) = Aes.addRoundKey (Aes.invMixColumns x) (Aes.invMixColumns y) from mixWith_addRoundKey _, h2]
      exact congrArg (Aes.addRoundKey · _) (refImage_netRound .decrypt zeroBlock (by omega) hn _).symm
  show lastRound _ _ 10 _ = Aes.decrypt zeroBlock b
  rw [refImage_lastRound, Aes.decrypt, hr 9 (by omega), invSubBytes_invShiftRows]
  rfl

theorem witness_ConformingTableSetsAreMutualInverses :
    Conforms (refImage .encrypt zeroBlock) zeroBlock .encrypt ∧ Conforms (refImage .decrypt zeroBlock) zeroBlock .decrypt :=
  ⟨zeroKey_conforms_encrypt, zeroKey_conforms_decrypt⟩

/-- Encodings that are not the identity: L rotates by one bit, a = 0x63, B adds 1 modulo 256, K in the first lane of a column. -/
def sampleEncoding : Encoding :=
  { lin := fun _ _ x => x.rotateLeft 1, linInv := fun _ _ x => x.rotateRight 1, off := fun _ _ => 0x63#8,
    edge := fun _ _ x => x + 1#8, edgeInv := fun _ _ x => x - 1#8, mask := fun _ j => if j.val % 4 = 0 then 0x63636363#32 else 0#32 }

theorem witness_EncodedTableSetConforms :
    sampleEncoding.Valid ∧ Conforms (refImage .encrypt zeroBlock) zeroBlock .encrypt := by
  have hL : ∀ x : Byte, (x.rotateLeft 1).rotateRight 1 = x := by decide +kernel
  have hB : ∀ x : Byte, x + 1#8 - 1#8 = x := by decide +kernel
  have hK : ∀ j : Lane, sampleEncoding.mask 1 (columnLane j 0) ^^^ sampleEncoding.mask 1 (columnLane j 1) ^^^ sampleEncoding.mask 1 (columnLane j 2) ^^^
      sampleEncoding.mask 1 (columnLane j 3) = sampleEncoding.offWord 1 j := by decide +kernel
  refine ⟨⟨fun _ _ x y _ _ => ?_, fun _ _ x _ _ => hL x, fun _ _ x _ _ => hB x, fun _ j _ _ => hK j⟩, zeroKey_conforms_encrypt⟩
  show (x ^^^ y).rotateLeft 1 = x.rotateLeft 1 ^^^ y.rotateLeft 1
  ext i hi
  simp only [BitVec.getElem_rotateLeft, BitVec.getElem_xor]
  split <;> rfl

/-- A state whose TMEM holds an artifact. -/
def loaded (t : Image) (x : Block) : State :=
  { State.reset with status := Status.zero.accept, lcmd := 1#32, tmem := (List.range' 0 Config.tsBytes).map fun a => (a, t a), din := x }

theorem loaded_image (t : Image) (x : Block) (a : Nat) (h : a < Config.tsBytes) : (loaded t x).image a = t a := by
  show (Memory.written ((List.range' 0 Config.tsBytes).map fun a => (a, t a)) a).getD _ = _
  rw [written_rangeMap, if_pos (by omega)]
  rfl

theorem hdrOK_loaded (t : Image) (x : Block) : hdrOK (loaded t x).image = hdrOK t := by
  have h : ∀ a, a < Config.tsBytes → (loaded t x).image a = t a := loaded_image t x
  have hr : ∀ a, a < 0x20 → (loaded t x).image a = t a := fun a ha => h a (by simp only [Config.tsBytes]; omega)
  simp only [hdrOK, memRead4]
  simp (disch := decide) only [hr]

theorem witness_EvalWithConformingTableSetIsAes :
    Conforms (loaded (refImage .decrypt zeroBlock) keyKS).image zeroBlock .decrypt := by
  have h := loaded_image (refImage .decrypt zeroBlock) keyKS
  refine ⟨(hdrOK_loaded _ _).trans (hdrOK_refImage _ _), (h 8 (by decide)).trans rfl, fun b => ?_⟩
  exact (wb_congr h _ b).trans (zeroKey_conforms_decrypt.2.2 b)

theorem witness_WorkedExampleEvaluates :
    (∀ a, a < Config.tsBytes →
      (loaded (refImage .encrypt keyKS) (blk 0x00112233445566778899aabbccddeeff)).image a =
        refImage .encrypt #v[0x00, 0x01, 0x02, 0x03, 0x04, 0x05, 0x06, 0x07, 0x08, 0x09, 0x0a, 0x0b, 0x0c, 0x0d, 0x0e, 0x0f] a) ∧
      (loaded (refImage .encrypt keyKS) (blk 0x00112233445566778899aabbccddeeff)).din =
        #v[0x00, 0x11, 0x22, 0x33, 0x44, 0x55, 0x66, 0x77, 0x88, 0x99, 0xaa, 0xbb, 0xcc, 0xdd, 0xee, 0xff] := by
  have hk : keyKS = #v[0x00, 0x01, 0x02, 0x03, 0x04, 0x05, 0x06, 0x07, 0x08, 0x09, 0x0a, 0x0b, 0x0c, 0x0d, 0x0e, 0x0f] := by decide +kernel
  refine ⟨fun a ha => ?_, ?_⟩
  · rw [← hk]; exact loaded_image _ _ a ha
  · show blk 0x00112233445566778899aabbccddeeff = _
    decide +kernel

/-- The bounds of LEN, on both sides (PadBuildsTheFinalBlock, PadLengthAbove15IsIllegal). -/
theorem witness_pad_lengths : (0#5).toNat ≤ 15 ∧ (15#5).toNat ≤ 15 ∧ 16 ≤ (16#5).toNat ∧ 16 ≤ (31#5).toNat := by decide

/-- n = 1 and n = 16. -/
theorem witness_UnpadFollowsItsRule_valid :
    (∀ k : Lane, 16 - 1 ≤ k.val → (blk 0xa0a1a2a3a4a5a6a7a8a9aaabacadae01)[k] = (blk 0xa0a1a2a3a4a5a6a7a8a9aaabacadae01)[15]) ∧
      (blk 0xa0a1a2a3a4a5a6a7a8a9aaabacadae01)[15].toNat = 1 ∧
      (∀ k : Lane, 16 - 16 ≤ k.val → (blk 0x10101010101010101010101010101010)[k] = (blk 0x10101010101010101010101010101010)[15]) ∧
      (blk 0x10101010101010101010101010101010)[15].toNat = 16 := by decide +kernel

/-- n = 0, n = 17, and a last byte 2 after a byte 3. -/
theorem witness_UnpadFollowsItsRule_invalid :
    zeroBlock[15].toNat = 0 ∧ 16 < (blk 0x11)[15].toNat ∧
      (16 - (blk 0x0302)[15].toNat ≤ (14 : Lane).val ∧ (blk 0x0302)[(14 : Lane)] ≠ (blk 0x0302)[15]) := by decide +kernel

theorem witness_UnpadInvertsPad :
    (15#5).toNat ≤ 15 ∧ ∃ t, exec (.pad 15#5) (flying 0xF2#32) = .next t ∧ ({ State.reset with din := t.dout } : State).din = t.dout :=
  ⟨by decide, _, rfl, rfl⟩

theorem witness_TamperedPaddingIsInvalid :
    ((0x00#8 = 0x00#8 ∨ 0x10 < (0x00#8).toNat) ∧ (0x11#8 = 0x00#8 ∨ 0x10 < (0x11#8).toNat)) ∧
      ∃ t, exec (.pad 0#5) (flying 0x02#32) = .next t ∧ ({ State.reset with din := t.dout.set 15 0x11#8 } : State).din = t.dout.set 15 0x11#8 :=
  ⟨by decide, _, rfl, rfl⟩

/-- 17 bytes, the last in DIN[0]. -/
theorem witness_StreamPadIsBlockPad :
    ∀ k : Lane, k.val < (List.replicate 17 0xFF#8).length % 16 →
      (List.replicate 17 0xFF#8)[16 * ((List.replicate 17 0xFF#8).length / 16) + k.val]? = some (inFlight 0x12#32 [] (blk (0xFF <<< 120))).din[k] := by
  decide +kernel

/-- One block of stream. -/
theorem witness_StreamUnpadIsBlockUnpad :
    0 < (List.replicate 16 0x10#8).length ∧ (List.replicate 16 0x10#8).length % 16 = 0 ∧
      (List.replicate 16 0x10#8).drop ((List.replicate 16 0x10#8).length - 16) =
        (inFlight 0x3#32 [] (blk 0x10101010101010101010101010101010)).din.toList := by decide +kernel

theorem witness_ErrorCompletionWritesOnlyStatus :
    (flying 0x0#32).turn = .engine ∧ (flying 0x0#32).status.busy = true ∧
      ∃ t, step (flying 0x0#32) = .next t ∧ t.status.err = true := ⟨by decide, by decide, _, rfl, rfl⟩

/-- One in-flight word for each clause. -/
theorem witness_ErrorCodesPerCommand :
    (∀ i : Fin 5, (flying (#v[0x1#32, 0x4#32, 0xF2#32, 0x3#32, 0x0#32])[i]).turn = .engine ∧
        (flying (#v[0x1#32, 0x4#32, 0xF2#32, 0x3#32, 0x0#32])[i]).status.busy = true) ∧
      decode (flying 0x1#32).lcmd = .ok .eval ∧ decode (flying 0x4#32).lcmd = .ok .check ∧ decode (flying 0xF2#32).lcmd = .ok (.pad 15#5) ∧
      decode (flying 0x3#32).lcmd = .ok .unpad ∧ decode (flying 0x0#32).lcmd = .error .reservedOp := by decide

theorem witness_InterruptFollowsCompletionAndAcknowledge :
    (({ flying 0x3#32 with ie := true } : State).turn = .engine ∧ ({ flying 0x3#32 with ie := true } : State).status.busy = true ∧
        ∃ t, step { flying 0x3#32 with ie := true } = .next t) ∧
      (0x00000002#32).getLsbD 1 = true := ⟨⟨by decide, by decide, _, rfl⟩, by decide⟩

/-- A CMD write that is accepted, one that is ignored, and a STATUS write. -/
theorem witness_CmdWriteAccepts_and_StatusWriteClearsDoneAndWign :
    ((issuing Status.zero (.write 0x00004#19 32 1#32)).turn = .host ∧ (issuing Status.zero (.write 0x00004#19 32 1#32)).host = [.write 0x00004#19 32 1#32]) ∧
      ((issuing Status.zero.accept (.write 0x00004#19 32 1#32)).turn = .host ∧
        (issuing Status.zero.accept (.write 0x00004#19 32 1#32)).status.busy = true) ∧
      (issuing statusH13 (.write 0x00008#19 32 2#32)).turn = .host := by decide

/-- CMD, and the first and last word of DIN and of TMEM. -/
def writeBounds : Vector HostAddr 5 := #v[0x00004#19, 0x00010#19, 0x0001C#19, 0x40000#19, 0x7FFFC#19]

theorem witness_BusyWritesOnlySetWign :
    (flying 0x1#32).status.busy = true ∧
      (∀ i : Fin 5, (writeBounds[i]).toNat % 4 = 0 ∧
        ((writeBounds[i]).toNat = 0x4 ∨ (0x10 ≤ (writeBounds[i]).toNat ∧ (writeBounds[i]).toNat ≤ 0x1C) ∨ 0x40000 ≤ (writeBounds[i]).toNat)) ∧
      (0x01000000#32).getLsbD 24 = true ∧ (flying 0x1#32).turn = .engine ∧ ∃ t, step (flying 0x1#32) = .next t :=
  ⟨by decide, by decide, by decide, by decide, _, rfl⟩

theorem witness_BlockWordsAreLittleEndian : State.reset.status.busy = false := rfl

/-- The first and the last word of TMEM, with BUSY = 1 and with BUSY = 0. -/
theorem witness_TmemWriteReplacesFourBytes :
    (0x40000 ≤ (0x40000#19).toNat ∧ (0x40000#19).toNat % 4 = 0) ∧ (0x40000 ≤ (0x7FFFC#19).toNat ∧ (0x7FFFC#19).toNat % 4 = 0) ∧
      (flying 0x1#32).status.busy = true ∧ State.reset.status.busy = false := by decide

theorem witness_ReadsHaveNoSideEffectAndTmemReadsItsBytes :
    (issuing Status.zero (.read 0x7FFFC#19 32)).turn = .host ∧ (issuing Status.zero (.read 0x7FFFC#19 32)).host = [.read 0x7FFFC#19 32] ∧
      0x40000 ≤ (0x7FFFC#19).toNat ∧ (0x7FFFC#19).toNat % 4 = 0 := by decide

/-- A narrow access, a misaligned one, and the bounds of the unmapped hole. -/
theorem witness_BusErrorsHaveNoEffect :
    ((0x0002C#19).toNat % 4 = 0 ∧ (0x0002C#19).toNat ≤ 0x0002F ∧ (0x40000#19).toNat % 4 = 0 ∧ 0x40000 ≤ (0x40000#19).toNat) ∧
    (∀ o ∈ [HostOp.read 0x00030#19 32, .read 0x00000#19 8, .write 0x3FFFC#19 32 1#32, .write 0x00012#19 32 1#32],
      (issuing Status.zero.accept o).turn = .host ∧ (issuing Status.zero.accept o).host = [o]) ∧
      ((8 : Nat) ≠ 32 ∧ (0x00012#19).toNat % 4 ≠ 0 ∧ (0x00030 ≤ (0x00030#19).toNat ∧ (0x3FFFC#19).toNat ≤ 0x3FFFF)) := by decide

theorem witness_ResetStepAbandonsEverything : ({ flying 0x1#32 with turns := [.reset] } : State).turn = .reset := rfl

/-- A state with a valid header recorded and an accept to come, in the invariant, whose step goes on. -/
theorem witness_EveryStepKeepsTheInvariant :
    ({ issuing { Status.zero with tsv := true, done := true, outlen := 15#5 } (.write 0x00004#19 32 1#32) with tmem := header 0 } : State).Inv ∧
      ∃ t, step { issuing { Status.zero with tsv := true, done := true, outlen := 15#5 } (.write 0x00004#19 32 1#32) with tmem := header 0 } = .next t := by
  refine And.intro ⟨by decide +kernel, rfl, (fun h => by cases h), (fun _ => ?_), ?_⟩ ⟨_, rfl⟩
  · exact ⟨by decide +kernel, by decide +kernel⟩
  · exact ⟨by decide, fun k _ => zeroBlock_getElem _ _⟩

theorem witness_ErrcodeIsZeroWithoutError :
    ((flying 0x4#32).status.ErrOk ∧ ∃ t, step (flying 0x4#32) = .next t ∧ t.status.err = false) ∧
      ((flying 0x4#32).turn = .engine ∧ (flying 0x4#32).status.busy = true) ∧
      (State.reset.status.busy = true ∨ 0x00008#19 ≠ 0x00004#19 ∨ (32 : Nat) ≠ 32) := by
  have h : hdrOK (flying 0x4#32).image = true := by decide +kernel
  refine ⟨⟨rfl, _, (show step (flying 0x4#32) = .next (flying 0x4#32).noteHeader.complete from execCheck_ok h), rfl⟩, by decide, by decide⟩

/-- BUSY rises at an accept and falls at a completion. -/
theorem witness_BusyChangesOnlyAtAcceptCompletionReset :
    ((flying 0x3#32).turn = .engine ∧ ({ flying 0x1#32 with turns := [.reset] } : State).turn = .reset ∧
        ∃ t, step { flying 0x1#32 with turns := [.reset] } = .next t) ∧
    ((issuing Status.zero (.write 0x00004#19 32 1#32)).status.busy = false ∧
        ∃ t, step (issuing Status.zero (.write 0x00004#19 32 1#32)) = .next t ∧ t.status.busy = true) ∧
      ((flying 0x3#32).status.busy = true ∧ ∃ t, step (flying 0x3#32) = .next t ∧ t.status.busy = false) :=
  ⟨⟨rfl, rfl, _, rfl⟩, ⟨rfl, _, rfl, rfl⟩, rfl, _, rfl, by decide +kernel⟩

theorem witness_OutputChangesOnlyAtSuccessfulCompletion :
    ∃ t, step (flying 0x2#32) = .next t ∧ t.status.outlen ≠ (flying 0x2#32).status.outlen := ⟨_, rfl, by decide⟩

/-- A DIN write and a TMEM write, each changing a byte. -/
theorem witness_InputsChangeOnlyByIdleHostWrites :
    ((issuing Status.zero (.write 0x00010#19 32 1#32)).turn ≠ .reset ∧
        ∃ t, step (issuing Status.zero (.write 0x00010#19 32 1#32)) = .next t ∧ t.din ≠ (issuing Status.zero (.write 0x00010#19 32 1#32)).din) ∧
      ({ issuing Status.zero (.write 0x40000#19 32 1#32) with tmem := header 0 } : State).turn ≠ .reset ∧
        ∃ t, step { issuing Status.zero (.write 0x40000#19 32 1#32) with tmem := header 0 } = .next t ∧
          t.image 0 ≠ ({ issuing Status.zero (.write 0x40000#19 32 1#32) with tmem := header 0 } : State).image 0 :=
  ⟨⟨by decide, _, rfl, by decide +kernel⟩, by decide, _, rfl, by decide +kernel⟩

/-- TSV rises at CHECK; it falls at a failed CHECK, at an accepted TMEM write and at reset. -/
theorem witness_TsvChangesOnlyAsListed :
    (nextOf (inFlight 0x4#32 (header 0) zeroBlock)).status.tsv = true ∧
      (nextOf { inFlight 0x4#32 (header 2) zeroBlock with status := { Status.zero.accept with tsv := true } }).status.tsv = false ∧
      (nextOf (issuing { Status.zero with tsv := true } (.write 0x7FFFC#19 32 1#32))).status.tsv = false ∧
      (nextOf { issuing { Status.zero with tsv := true } (.read 0#19 32) with turns := [.reset] }).status.tsv = false := by decide +kernel

/-- A command in flight stays in flight over one host turn. -/
theorem witness_CompletionIsFixedAtAccept :
    StaysInFlight 1 { flying 0x3#32 with turns := [.host] } { flying 0x3#32 with turns := [] } := ⟨rfl, _, rfl, rfl, rfl⟩

theorem witness_LdblkFillsDinAndRdblkGivesDout :
    (({ State.reset with dout := keyKS, host := HostProgram.rdblk ++ HostProgram.clrst } : State).turns = [] ∧
      ({ State.reset with dout := keyKS, host := HostProgram.rdblk ++ HostProgram.clrst } : State).status.busy = false ∧
      ({ State.reset with dout := keyKS, host := HostProgram.rdblk ++ HostProgram.clrst } : State).host = HostProgram.rdblk ++ HostProgram.clrst) ∧
    ({ State.reset with host := HostProgram.ldblk keyKS ++ [HostProgram.rd32 0#19] } : State).turns = [] ∧
      ({ State.reset with host := HostProgram.ldblk keyKS ++ [HostProgram.rd32 0#19] } : State).status.busy = false ∧
      ({ State.reset with host := HostProgram.ldblk keyKS ++ [HostProgram.rd32 0#19] } : State).host = HostProgram.ldblk keyKS ++ [HostProgram.rd32 0#19] :=
  ⟨⟨rfl, rfl, rfl⟩, rfl, rfl, rfl⟩

theorem witness_CommandThenWaitCompletes :
    ({ State.reset with host := HostProgram.evalCmd ++ (HostProgram.wait ++ HostProgram.rdblk) } : State).turns = [] ∧
      ({ State.reset with host := HostProgram.evalCmd ++ (HostProgram.wait ++ HostProgram.rdblk) } : State).status.busy = false ∧
      ({ State.reset with host := HostProgram.evalCmd ++ (HostProgram.wait ++ HostProgram.rdblk) } : State).host =
        HostProgram.wr32 0x00004#19 1#32 :: (HostProgram.wait ++ HostProgram.rdblk) := ⟨rfl, rfl, rfl⟩

theorem witness_CommandInFlightEnds : (flying 0x3#32).status.busy = true := rfl

end Sys2Proof.Tests
end

/-! What a step can do, said once: the effects of a host write with the address they need, the completions of a command, and the kinds of step.
Each is an inductive predicate with one constructor per outcome, tied to the model by the theorem after it. -/

namespace Sys2Proof.Machine

/-! ### Window addresses -/

/-- An access without a bus error (R72, R73). -/
theorem isBusError_eq_false_iff (a : HostAddr) (bits : Nat) :
    isBusError a bits = false ↔ bits = 32 ∧ a.toNat % 4 = 0 ∧ targetOf a ≠ .unmapped := by
  simp [isBusError, and_assoc]

/-- Without a bus error a write reaches its target. -/
theorem hostWrite_eq_writeTarget {a : HostAddr} (h : isBusError a 32 = false) (s : State) (v : Word) :
    s.hostWrite a 32 v = s.writeTarget (targetOf a) v := by
  simp [State.hostWrite, h]

/-- Without a bus error a read gets its target's word. -/
theorem hostRead_eq_readTarget {a : HostAddr} (h : isBusError a 32 = false) (s : State) :
    s.hostRead a 32 = { error := false, data := some (s.readTarget (targetOf a)) } := by
  simp [State.hostRead, h]

theorem targetOf_eq_cmd {a : HostAddr} (h : targetOf a = .cmd) (h4 : a.toNat % 4 = 0) : a = 0x00004#19 := by
  unfold targetOf at h
  split_ifs at h
  exact BitVec.eq_of_toNat_eq (show a.toNat = 4 by omega)

theorem targetOf_eq_din {a : HostAddr} {i : Fin 4} (h : targetOf a = .din i) (h4 : a.toNat % 4 = 0) :
    0x10 ≤ a.toNat ∧ a.toNat ≤ 0x1C := by
  unfold targetOf at h
  split_ifs at h
  omega

/-- An aligned TMEM word lies inside TMEM (R53). -/
theorem targetOf_eq_tmem {a : HostAddr} {o : Nat} (h : targetOf a = .tmem o) (h4 : a.toNat % 4 = 0) :
    0x40000 ≤ a.toNat ∧ o + 3 < Config.tmemBytes := by
  have ha := a.isLt
  unfold targetOf at h
  split_ifs at h
  have ho := Target.tmem.inj h
  simp only [Config.tmemBytes]
  omega

theorem targetOf_din_range {a : HostAddr} (hlo : 0x10 ≤ a.toNat) (hhi : a.toNat < 0x20) : ∃ i, targetOf a = .din i :=
  ⟨_, by simp only [targetOf]; rw [if_neg (by omega), if_neg (by omega), if_neg (by omega), if_neg (by omega), if_pos hhi]⟩

theorem targetOf_tmem_range {a : HostAddr} (h : 0x40000 ≤ a.toNat) : ∃ o, targetOf a = .tmem o :=
  ⟨_, by
    simp only [targetOf]
    rw [if_neg (by omega), if_neg (by omega), if_neg (by omega), if_neg (by omega), if_neg (by omega), if_neg (by omega), if_neg (by omega)]⟩

/-! ### Host writes -/

/-- The effects of a host write, as `hostWrite_cases` lists them, each with the address and width it needs. -/
inductive WriteEffect (s : State) (a : HostAddr) (bits : Nat) (v : Word) : State → Prop
  | ignored : WriteEffect s a bits v s
  | wign (hb : s.status.busy = true) : WriteEffect s a bits v s.setWign
  | accept (hb : s.status.busy = false) (hbits : bits = 32) (ha : a = 0x00004#19) : WriteEffect s a bits v (s.accept v)
  | status : WriteEffect s a bits v { s with status := s.status.writeOneToClear v }
  | irqen : WriteEffect s a bits v { s with ie := v.getLsbD 0 }
  | din (i : Fin 4) (hb : s.status.busy = false) (hbits : bits = 32) (h4 : a.toNat % 4 = 0) (ha : 0x10 ≤ a.toNat ∧ a.toNat ≤ 0x1C) :
      WriteEffect s a bits v { s with din := setBlockWord s.din i v }
  | tmem (o : Nat) (ho : o + 3 < Config.tmemBytes) (hb : s.status.busy = false) (hbits : bits = 32) (h4 : a.toNat % 4 = 0)
      (ha : 0x40000 ≤ a.toNat) : WriteEffect s a bits v ({ s with tmem := s.tmem.writeWord o v }.setTsv false)

theorem hostWrite_effect (s : State) (a : HostAddr) (bits : Nat) (v : Word) : WriteEffect s a bits v (s.hostWrite a bits v) := by
  cases he : isBusError a bits with
  | true => simpa [State.hostWrite, he] using WriteEffect.ignored
  | false =>
    obtain ⟨rfl, h4, -⟩ := (isBusError_eq_false_iff a bits).1 he
    rw [hostWrite_eq_writeTarget he]
    cases ht : targetOf a with
    | id => exact .ignored
    | dout i => exact .ignored
    | unmapped => exact .ignored
    | status => exact .status
    | irqen => exact .irqen
    | cmd =>
      cases hb : s.status.busy with
      | true => exact writeTarget_busy hb v (.inl rfl) ▸ .wign hb
      | false => exact writeTarget_cmd hb v ▸ .accept hb rfl (targetOf_eq_cmd ht h4)
    | din i =>
      cases hb : s.status.busy with
      | true => exact writeTarget_busy hb v (.inr (.inl ⟨i, rfl⟩)) ▸ .wign hb
      | false => exact writeTarget_din hb i v ▸ .din i hb rfl h4 (targetOf_eq_din ht h4)
    | tmem o =>
      obtain ⟨ha, ho⟩ := targetOf_eq_tmem ht h4
      cases hb : s.status.busy with
      | true => exact writeTarget_busy hb v (.inr (.inr ⟨_, rfl⟩)) ▸ .wign hb
      | false => exact writeTarget_tmem hb _ v ▸ .tmem o ho hb rfl h4 ha

/-! ### Completions -/

/-- The completions of the command in `lcmd` (R153, R158, R192, R196, R225). -/
inductive Completion (s : State) : State → Prop
  | evalOk (hd : decode s.lcmd = .ok .eval) (hh : hdrOK s.image = true) :
      Completion s ((s.output s.evalBlock 16#5).noteHeader.complete).dropWalk
  | evalBad (hd : decode s.lcmd = .ok .eval) (hh : hdrOK s.image = false) : Completion s s.refuseHeader.dropWalk
  | checkOk (hd : decode s.lcmd = .ok .check) (hh : hdrOK s.image = true) : Completion s s.noteHeader.complete
  | checkBad (hd : decode s.lcmd = .ok .check) (hh : hdrOK s.image = false) : Completion s s.refuseHeader
  | pad {len : BitVec 5} (hd : decode s.lcmd = .ok (.pad len)) : Completion s (s.output (padBlock s.din (lenValue len)) 16#5).complete
  | unpadOk (hd : decode s.lcmd = .ok .unpad) (hp : padOK s.din = true) :
      Completion s (s.output (unpadBlock s.din) (BitVec.ofNat 5 (16 - s.din[15].toNat))).complete
  | unpadBad (hd : decode s.lcmd = .ok .unpad) (hp : padOK s.din = false) : Completion s (s.raiseError .invalidPadding)
  | illegal {r : DecodeReject} (hd : decode s.lcmd = .error r) : Completion s (s.raiseError .illegalCommand)

/-- A decoded PAD has a legal LEN (R116). -/
theorem lenValue_le_of_decode_pad {v : Word} {len : BitVec 5} (h : decode v = .ok (.pad len)) : lenValue len ≤ 15 := by
  unfold decode at h
  split_ifs at h <;> cases h
  assumption

/-- With a command in flight the engine's step is its completion. -/
theorem engineTurn_eq_next_iff {s t : State} (hb : s.status.busy = true) : engineTurn s = .next t ↔ Completion s t := by
  constructor
  · intro h
    cases hd : decode s.lcmd with
    | error r => 
      rw [engineTurn_illegal hb hd] at h
      cases h
      exact .illegal hd
    | ok i =>
      rw [engineTurn_ok hb hd] at h
      cases i with
      | eval =>
        cases hh : hdrOK s.image with
        | true => cases (execEval_ok hh).symm.trans h; exact .evalOk hd hh
        | false => cases (execEval_bad hh).symm.trans h; exact .evalBad hd hh
      | pad len => cases (execPad_ok (lenValue_le_of_decode_pad hd) s).symm.trans h; exact .pad hd
      | unpad =>
        cases hp : padOK s.din with
        | true => cases (execUnpad_ok hp).symm.trans h; exact .unpadOk hd hp
        | false => cases (execUnpad_bad hp).symm.trans h; exact .unpadBad hd hp
      | check =>
        cases hh : hdrOK s.image with
        | true => cases (execCheck_ok hh).symm.trans h; exact .checkOk hd hh
        | false => cases (execCheck_bad hh).symm.trans h; exact .checkBad hd hh
  · intro h
    cases h with
    | evalOk hd hh => exact (engineTurn_ok hb hd).trans (execEval_ok hh)
    | evalBad hd hh => exact (engineTurn_ok hb hd).trans (execEval_bad hh)
    | checkOk hd hh => exact (engineTurn_ok hb hd).trans (execCheck_ok hh)
    | checkBad hd hh => exact (engineTurn_ok hb hd).trans (execCheck_bad hh)
    | pad hd => exact (engineTurn_ok hb hd).trans (execPad_ok (lenValue_le_of_decode_pad hd) s)
    | unpadOk hd hp => exact (engineTurn_ok hb hd).trans (execUnpad_ok hp)
    | unpadBad hd hp => exact (engineTurn_ok hb hd).trans (execUnpad_bad hp)
    | illegal hd => exact engineTurn_illegal hb hd

/-! ### Steps -/

/-- The state with another host side: the operations and turns still to come, and the responses given. -/
def State.withHostSide (s : State) (ops : List HostOp) (ts : List Turn) (rs : List Response) : State :=
  { s with host := ops, turns := ts, responses := rs }

section
variable (s : State) (ops : List HostOp) (ts : List Turn) (rs : List Response)

@[simp] theorem withHostSide_status : (s.withHostSide ops ts rs).status = s.status := rfl
@[simp] theorem withHostSide_ie : (s.withHostSide ops ts rs).ie = s.ie := rfl
@[simp] theorem withHostSide_din : (s.withHostSide ops ts rs).din = s.din := rfl
@[simp] theorem withHostSide_dout : (s.withHostSide ops ts rs).dout = s.dout := rfl
@[simp] theorem withHostSide_tmem : (s.withHostSide ops ts rs).tmem = s.tmem := rfl
@[simp] theorem withHostSide_lcmd : (s.withHostSide ops ts rs).lcmd = s.lcmd := rfl
@[simp] theorem withHostSide_era : (s.withHostSide ops ts rs).era = s.era := rfl
@[simp] theorem withHostSide_image : (s.withHostSide ops ts rs).image = s.image := rfl

theorem writeTarget_withHostSide (t : Target) (v : Word) :
    (s.withHostSide ops ts rs).writeTarget t v = (s.writeTarget t v).withHostSide ops ts rs := by
  cases hb : s.status.busy <;> cases t <;> simp [State.writeTarget, hb] <;> rfl

/-- A host write does not look at the host's side. -/
theorem hostWrite_withHostSide (a : HostAddr) (bits : Nat) (v : Word) :
    (s.withHostSide ops ts rs).hostWrite a bits v = (s.hostWrite a bits v).withHostSide ops ts rs := by
  unfold State.hostWrite
  split
  · rfl
  · exact writeTarget_withHostSide s ops ts rs (targetOf a) v

end

/-- The kinds of step that go on: a reset, a completion, a host write, or a turn that leaves the block as it is (a read, a POLL, or nothing to do). -/
inductive StepKind (s : State) : State → Prop
  | reset (ht : s.turn = .reset) : StepKind s s.popTurn.resetBlock
  | completion {t : State} (ht : s.turn = .engine) (hb : s.status.busy = true) (hc : Completion s.popTurn t) : StepKind s t
  | write {a : HostAddr} {bits : Nat} {v : Word} {rest : List HostOp} {t : State} (ht : s.turn = .host) (hh : s.host = .write a bits v :: rest)
      (hw : WriteEffect s a bits v t) (rs : List Response) : StepKind s (t.withHostSide rest s.turns.tail rs)
  | blockKept (ops : List HostOp) (rs : List Response) : StepKind s (s.withHostSide ops s.turns.tail rs)

/-- The host's half of `stepKind`. -/
theorem hostTurn_kind {s t : State} (ht : s.turn = .host) (h : hostTurn s.popTurn = .next t) : StepKind s t := by
  rcases hostTurn_cases s.popTurn with
    ⟨-, e⟩ | ⟨a, bits, rest, -, e⟩ | ⟨a, bits, v, rest, hh, e⟩ | ⟨a, m, v, rest, -, -, e⟩ | ⟨a, m, v, rest, -, -, -, e⟩ | ⟨a, m, v, rest, -, -, -, e⟩
  · cases e.symm.trans h; exact .blockKept _ _
  · cases e.symm.trans h; exact .blockKept _ _
  · cases e.symm.trans h
    have hw := hostWrite_withHostSide s rest s.turns.tail s.responses a bits v
    exact (congrArg (fun u : State => StepKind s (u.respond _)) hw).mpr (.write ht hh (hostWrite_effect s a bits v) _)
  · cases e.symm.trans h; exact .blockKept _ _
  · cases e.symm.trans h; exact .blockKept _ _
  · cases e.symm.trans h

/-- An engine's step with a command in flight is its completion. -/
theorem step_engine_iff {s t : State} (ht : s.turn = .engine) (hb : s.status.busy = true) : step s = .next t ↔ Completion s.popTurn t := by
  rw [step_eq, ht]
  exact engineTurn_eq_next_iff hb

/-- An engine's step with no command in flight only spends the turn. -/
theorem step_engine_idle {s : State} (ht : s.turn = .engine) (hb : s.status.busy = false) : step s = .next s.popTurn := by
  rw [step_eq, ht]
  exact engineTurn_idle hb

theorem step_reset {s : State} (ht : s.turn = .reset) : step s = .next s.popTurn.resetBlock := by
  rw [step_eq, ht]
  rfl

/-- Every step that goes on is of one of these kinds. -/
theorem stepKind {s t : State} (h : step s = .next t) : StepKind s t := by
  cases ht : s.turn with
  | host =>
    rw [step_eq, ht] at h
    exact hostTurn_kind ht h
  | reset => cases (step_reset ht).symm.trans h; exact .reset ht
  | engine =>
    cases hb : s.status.busy with
    | true => exact .completion ht hb ((step_engine_iff ht hb).1 h)
    | false => cases (step_engine_idle ht hb).symm.trans h; exact .blockKept s.host s.responses

end Sys2Proof.Machine

/-! The invariant of the block: at reset, over a host write, over a completion, and so over every step. -/

namespace Sys2Proof.Machine

/-! ### ERR and ERRCODE -/

theorem errOk_succeed (st : Status) : st.succeed.ErrOk := by simp [Status.ErrOk]

theorem errOk_fail (st : Status) (e : CmdError) : (st.fail e).ErrOk := by cases e <;> simp [Status.ErrOk, CmdError.code]

theorem errOk_accept (st : Status) : st.accept.ErrOk := by simp [Status.ErrOk]

theorem Status.ErrOk.errcode_of_not_err {st : Status} (h : st.ErrOk) (he : st.err = false) : st.errcode = 0#3 := by
  simpa [Status.ErrOk, he] using h

/-- Every completion ends with the STATUS writes of R225, with or without an error. -/
theorem Completion.status_cases {s t : State} (h : Completion s t) :
    (∃ st, t.status = Status.succeed st) ∨ ∃ st e, t.status = Status.fail st e := by
  cases h with
  | evalOk | checkOk | pad | unpadOk => exact .inl ⟨_, rfl⟩
  | evalBad | checkBad | unpadBad | illegal => exact .inr ⟨_, _, rfl⟩

theorem Completion.busy {s t : State} (h : Completion s t) : t.status.busy = false := by
  obtain ⟨st, e⟩ | ⟨st, _, e⟩ := h.status_cases <;> simp [e]

theorem Completion.errOk {s t : State} (h : Completion s t) : t.status.ErrOk := by
  obtain ⟨st, e⟩ | ⟨st, c, e⟩ := h.status_cases
  · exact e ▸ errOk_succeed st
  · exact e ▸ errOk_fail st c

theorem WriteEffect.errOk {s t : State} {a : HostAddr} {bits : Nat} {v : Word} (h : WriteEffect s a bits v t) (hs : s.status.ErrOk) :
    t.status.ErrOk := by
  cases h with
  | accept => exact errOk_accept _
  | ignored | wign | status | irqen | din | tmem => exact hs

theorem StepKind.errOk {s t : State} (h : StepKind s t) (hs : s.status.ErrOk) : t.status.ErrOk := by
  cases h with
  | reset => rfl
  | completion _ _ hc => exact hc.errOk
  | write _ _ hw => exact hw.errOk hs
  | blockKept => exact hs

/-! ### TSV and the output -/

theorem Completion.tsvOk {s t : State} (h : Completion s t) (hs : s.TsvOk) : t.TsvOk := by
  cases h with
  | evalOk _ hh | checkOk _ hh => exact fun _ => ⟨hh, rfl⟩
  | evalBad | checkBad => exact fun ht => absurd ht Bool.false_ne_true
  | pad | unpadOk | unpadBad | illegal => exact hs

theorem outOk_of_outlen_16 {s : State} (h : s.status.outlen = 16#5) : s.OutOk := by
  refine ⟨by simp [h], fun k hk => ?_⟩
  have := k.isLt
  simp [h] at hk
  omega

/-- The stripped block is zero past its data, of which there are at most 15 bytes (R196). -/
theorem outOk_unpad {s : State} (hp : padOK s.din = true) :
    (s.output (unpadBlock s.din) (BitVec.ofNat 5 (16 - s.din[15].toNat))).complete.OutOk := by
  obtain ⟨h1, h16, -⟩ := (padOK_iff s.din).1 hp
  have hlen : (BitVec.ofNat 5 (16 - s.din[15].toNat)).toNat = 16 - s.din[15].toNat := by
    rw [BitVec.toNat_ofNat]
    omega
  refine ⟨?_, fun k hk => ?_⟩
  · simp only [complete_status, Status.succeed_outlen, output_status, hlen]
    omega
  · simp only [complete_status, Status.succeed_outlen, output_status, hlen] at hk
    exact (unpadBlock_getElem s.din k.val k.isLt).trans (if_neg (by omega))

theorem Completion.outOk {s t : State} (h : Completion s t) (hs : s.OutOk) : t.OutOk := by
  cases h with
  | evalOk | pad => exact outOk_of_outlen_16 rfl
  | unpadOk _ hp => exact outOk_unpad hp
  | evalBad | checkOk | checkBad | unpadBad | illegal => exact hs

/-! ### The invariant -/

/-- No completion writes what the host writes: DIN and TMEM. -/
theorem Completion.inputs {s t : State} (h : Completion s t) : t.din = s.din ∧ t.tmem = s.tmem ∧ t.era = s.era := by
  cases h <;> exact ⟨rfl, rfl, rfl⟩

/-- The invariant with STATUS and DOUT at zero and no byte of TMEM written. -/
theorem inv_of_zero {s : State} (hst : s.status = Status.zero) (hout : s.dout = zeroBlock) (hmem : s.tmem = []) : s.Inv where
  mem := hmem ▸ Memory.wf_nil
  errOk := by rw [hst]; rfl
  busyOk := fun h => by simp [hst, Status.zero] at h
  tsvOk := fun h => by simp [hst, Status.zero] at h
  outOk := ⟨by simp [hst, Status.zero], fun k _ => by rw [hout]; exact zeroBlock_getElem k.val k.isLt⟩

theorem Completion.inv {s t : State} (h : Completion s t) (hs : s.Inv) : t.Inv where
  mem := h.inputs.2.1 ▸ hs.mem
  errOk := h.errOk
  busyOk := fun hb => absurd hb (by simp [h.busy])
  tsvOk := h.tsvOk hs.tsvOk
  outOk := h.outOk hs.outOk

theorem busyOk_writeOneToClear {st : Status} (h : st.BusyOk) (v : Word) : (st.writeOneToClear v).BusyOk := fun hb => by
  simp [h hb]

theorem WriteEffect.inv {s t : State} {a : HostAddr} {bits : Nat} {v : Word} (h : WriteEffect s a bits v t) (hs : s.Inv) : t.Inv := by
  obtain ⟨mem, errOk, busyOk, tsvOk, outOk⟩ := hs
  have errOk' := h.errOk errOk
  cases h with
  | ignored | wign | irqen | din => exact ⟨mem, errOk', busyOk, tsvOk, outOk⟩
  | accept => exact ⟨mem, errOk', fun _ => ⟨rfl, rfl⟩, tsvOk, outOk⟩
  | status => exact ⟨mem, errOk', busyOk_writeOneToClear busyOk v, tsvOk, outOk⟩
  | tmem o ho => exact ⟨Memory.wf_writeWord mem ho v, errOk', busyOk, fun ht => absurd ht Bool.false_ne_true, outOk⟩

theorem inv_withHostSide {s : State} (h : s.Inv) (ops : List HostOp) (ts : List Turn) (rs : List Response) : (s.withHostSide ops ts rs).Inv :=
  ⟨h.mem, h.errOk, h.busyOk, h.tsvOk, h.outOk⟩

theorem StepKind.inv {s t : State} (h : StepKind s t) (hs : s.Inv) : t.Inv := by
  cases h with
  | reset => exact inv_of_zero rfl rfl rfl
  | completion _ _ hc => exact hc.inv (inv_withHostSide hs _ _ _)
  | write _ _ hw => exact inv_withHostSide (hw.inv hs) _ _ _
  | blockKept => exact inv_withHostSide hs _ _ _

/-- Settles O52: every field the invariant speaks of is zero. -/
theorem invariantHoldsAtReset : Obligations.InvariantHoldsAtReset := inv_of_zero rfl rfl rfl

/-- Settles O53, by the kinds of step. -/
theorem everyStepKeepsTheInvariant : Obligations.EveryStepKeepsTheInvariant := fun _ _ hs h => (stepKind h).inv hs

end Sys2Proof.Machine

/-! What a command will produce is fixed at accept: the host's steps while it is in flight leave everything that its completion reads (R44, R55, R93). -/

namespace Sys2Proof.Machine

/-- Two states with the same command in flight on the same inputs, and the same output so far: all that a completion reads, and all it may leave. -/
structure SameCommand (s u : State) : Prop where
  busy : u.status.busy = s.status.busy
  lcmd : u.lcmd = s.lcmd
  din : u.din = s.din
  tmem : u.tmem = s.tmem
  era : u.era = s.era
  dout : u.dout = s.dout
  outlen : u.status.outlen = s.status.outlen
  tsv : u.status.tsv = s.status.tsv
  dir : u.status.dir = s.status.dir

theorem SameCommand.refl (s : State) : SameCommand s s := ⟨rfl, rfl, rfl, rfl, rfl, rfl, rfl, rfl, rfl⟩

theorem SameCommand.trans {s m u : State} (h : SameCommand s m) (h' : SameCommand m u) : SameCommand s u where
  busy := h'.busy.trans h.busy
  lcmd := h'.lcmd.trans h.lcmd
  din := h'.din.trans h.din
  tmem := h'.tmem.trans h.tmem
  era := h'.era.trans h.era
  dout := h'.dout.trans h.dout
  outlen := h'.outlen.trans h.outlen
  tsv := h'.tsv.trans h.tsv
  dir := h'.dir.trans h.dir

theorem SameCommand.image {s u : State} (h : SameCommand s u) : u.image = s.image := by
  unfold State.image
  rw [h.tmem, h.era]

theorem WriteEffect.sameCommand {s t : State} {a : HostAddr} {bits : Nat} {v : Word} (h : WriteEffect s a bits v t) (hb : s.status.busy = true) :
    SameCommand s t := by
  cases h with
  | ignored | wign | status | irqen => exact ⟨rfl, rfl, rfl, rfl, rfl, rfl, rfl, rfl, rfl⟩
  | accept hi | din _ hi | tmem _ _ hi => exact absurd hb (by simp [hi])

/-- A step that leaves a command in flight is the host's, and leaves what the completion reads. -/
theorem StepKind.sameCommand {s t : State} (h : StepKind s t) (hb : s.status.busy = true) (hb' : t.status.busy = true) : SameCommand s t := by
  cases h with
  | reset => exact absurd hb' Bool.false_ne_true
  | completion _ _ hc => exact absurd hb' (by simp [hc.busy])
  | write _ _ hw => exact (hw.sameCommand hb).trans ⟨rfl, rfl, rfl, rfl, rfl, rfl, rfl, rfl, rfl⟩
  | blockKept => exact ⟨rfl, rfl, rfl, rfl, rfl, rfl, rfl, rfl, rfl⟩

theorem StaysInFlight.busy {n : Nat} {s u : State} (h : StaysInFlight n s u) : s.status.busy = true := by
  cases n with
  | zero => exact h.2
  | succ n => exact h.1

theorem StaysInFlight.sameCommand {n : Nat} {s u : State} (h : StaysInFlight n s u) : SameCommand s u := by
  induction n generalizing s with
  | zero => exact h.1 ▸ .refl s
  | succ n ih =>
    obtain ⟨hb, m, hm, hrest⟩ := h
    exact ((stepKind hm).sameCommand hb hrest.busy).trans (ih hrest)

/-- The same command on the same inputs completes the same way. -/
theorem Completion.congr {s u t : State} (h : SameCommand s u) (hc : Completion s t) :
    ∃ w, Completion u w ∧ w.dout = t.dout ∧ w.status.err = t.status.err ∧ w.status.errcode = t.status.errcode ∧
      w.status.outlen = t.status.outlen ∧ w.status.tsv = t.status.tsv ∧ w.status.dir = t.status.dir ∧
      w.din = t.din ∧ w.tmem = t.tmem ∧ w.era = t.era := by
  have himg := h.image
  obtain ⟨-, hl, hdin, hm, he, hdout, hout, htsv, hdir⟩ := h
  cases hc with
  | evalOk hd hh => exact ⟨_, .evalOk (hl ▸ hd) (himg ▸ hh), by simp [evalBlock_eq_wb, *]⟩
  | evalBad hd hh => exact ⟨_, .evalBad (hl ▸ hd) (himg ▸ hh), by simp [*]⟩
  | checkOk hd hh => exact ⟨_, .checkOk (hl ▸ hd) (himg ▸ hh), by simp [*]⟩
  | checkBad hd hh => exact ⟨_, .checkBad (hl ▸ hd) (himg ▸ hh), by simp [*]⟩
  | pad hd => exact ⟨_, .pad (hl ▸ hd), by simp [*]⟩
  | unpadOk hd hp => exact ⟨_, .unpadOk (hl ▸ hd) (hdin ▸ hp), by simp [*]⟩
  | unpadBad hd hp => exact ⟨_, .unpadBad (hl ▸ hd) (hdin ▸ hp), by simp [*]⟩
  | illegal hd => exact ⟨_, .illegal (hl ▸ hd), by simp [*]⟩

/-- Settles O59: the command in flight and its inputs are the same after any number of steps. -/
theorem completionIsFixedAtAccept : Obligations.CompletionIsFixedAtAccept := by
  intro n s u h
  have hsame := h.sameCommand
  obtain ⟨t, ht, -⟩ := engineTurn_completes h.busy
  obtain ⟨w, hw, hresult⟩ := ((engineTurn_eq_next_iff h.busy).1 ht).congr hsame
  exact ⟨t, w, ht, (engineTurn_eq_next_iff (hsame.busy.trans h.busy)).2 hw, hresult⟩

end Sys2Proof.Machine

/-! The registers as the host sees them: STATUS, IRQEN, the constants, the block words, and writes that BUSY holds off. -/

namespace Sys2Proof.Machine

/-! ### STATUS -/

theorem hostWrite_status (s : State) (v : Word) : s.hostWrite 0x00008#19 32 v = { s with status := s.status.writeOneToClear v } :=
  hostWrite_eq_writeTarget (by decide) s v

theorem hostWrite_irqen (s : State) (v : Word) : s.hostWrite 0x0000C#19 32 v = { s with ie := v.getLsbD 0 } :=
  hostWrite_eq_writeTarget (by decide) s v

theorem getLsbD_append_ofBool {w : Nat} (x : BitVec w) (b : Bool) (n : Nat) :
    (x ++ BitVec.ofBool b).getLsbD n = if n < 1 then b else x.getLsbD (n - 1) := by
  rw [BitVec.getLsbD_append]
  split
  · simp [show n = 0 by omega]
  · rfl

/-- The layout of the STATUS word, bit by bit (R38, R47). -/
theorem Status.toWord_getLsbD (st : Status) (n : Nat) : st.toWord.getLsbD n =
    if n < 1 then st.busy else if n < 2 then st.done else if n < 3 then st.err else if n < 6 then st.errcode.getLsbD (n - 3)
    else if n < 8 then false else if n < 13 then st.outlen.getLsbD (n - 8) else if n < 16 then false else if n < 17 then st.tsv
    else if n < 18 then st.dir else if n < 24 then false else if n < 25 then st.wign else false := by
  rw [show st.toWord.getLsbD n = (0#7 ++ BitVec.ofBool st.wign ++ 0#6 ++ BitVec.ofBool st.dir ++ BitVec.ofBool st.tsv ++ 0#3 ++ st.outlen ++
    0#2 ++ st.errcode ++ BitVec.ofBool st.err ++ BitVec.ofBool st.done ++ BitVec.ofBool st.busy).getLsbD n from rfl]
  rw [getLsbD_append_ofBool, getLsbD_append_ofBool, getLsbD_append_ofBool, BitVec.getLsbD_append, BitVec.getLsbD_append, BitVec.getLsbD_append,
    BitVec.getLsbD_append, getLsbD_append_ofBool, getLsbD_append_ofBool, BitVec.getLsbD_append, getLsbD_append_ofBool]
  have hlt (k m : Nat) : n - k < m + 1 ↔ n < k + (m + 1) := by omega
  simp only [Nat.sub_sub, Nat.reduceAdd, BitVec.getLsbD_zero, hlt _ 0, hlt _ 1, hlt _ 2, hlt _ 4, hlt _ 5]

/-- A field of a word is known by its bits. -/
theorem extractLsb'_eq_of_getLsbD {w : Word} {start len : Nat} {f : BitVec len} (h : ∀ i, i < len → w.getLsbD (start + i) = f.getLsbD i) :
    w.extractLsb' start len = f :=
  BitVec.eq_of_getLsbD_eq fun i hi => by simp [hi, h i hi]

theorem Status.toWord_errcode (st : Status) : st.toWord.extractLsb' 3 3 = st.errcode :=
  extractLsb'_eq_of_getLsbD fun i hi => by
    rw [toWord_getLsbD]
    simp (disch := omega) only [if_neg, if_pos, Nat.add_sub_cancel_left]

theorem Status.toWord_outlen (st : Status) : st.toWord.extractLsb' 8 5 = st.outlen :=
  extractLsb'_eq_of_getLsbD fun i hi => by
    rw [toWord_getLsbD]
    simp (disch := omega) only [if_neg, if_pos, Nat.add_sub_cancel_left]

/-- The reserved bits of STATUS read 0 (R47). -/
theorem Status.toWord_reserved (st : Status) :
    st.toWord.extractLsb' 6 2 = 0#2 ∧ st.toWord.extractLsb' 13 3 = 0#3 ∧ st.toWord.extractLsb' 18 6 = 0#6 ∧ st.toWord.extractLsb' 25 7 = 0#7 := by
  refine ⟨?_, ?_, ?_, ?_⟩
  all_goals
    refine extractLsb'_eq_of_getLsbD fun i hi => ?_
    rw [toWord_getLsbD, BitVec.getLsbD_zero]
    simp (disch := omega) only [if_neg, if_pos]

/-- Settles O43, from the layout of the word. -/
theorem statusReadsItsFields : Obligations.StatusReadsItsFields := by
  intro s
  obtain ⟨h6, h13, h18, h25⟩ := s.status.toWord_reserved
  exact ⟨s.status.toWord, hostRead_eq_readTarget (by decide) s, s.status.toWord_getLsbD 0, s.status.toWord_getLsbD 1, s.status.toWord_getLsbD 2,
    s.status.toWord_errcode, h6, s.status.toWord_outlen, h13, s.status.toWord_getLsbD 16, s.status.toWord_getLsbD 17, h18,
    s.status.toWord_getLsbD 24, h25⟩

/-- Settles O39. -/
theorem statusWriteClearsDoneAndWign : Obligations.StatusWriteClearsDoneAndWign := by
  refine ⟨by decide, fun s v => ?_⟩
  rw [hostWrite_status, Status.writeOneToClear]
  cases v.getLsbD 1 <;> cases v.getLsbD 24 <;> simp

/-! ### IRQEN, constants and reset values -/

/-- IRQEN as a word (R49). -/
theorem irqenWord (b : Bool) : (0#31 ++ BitVec.ofBool b : Word) = if b then 1#32 else 0#32 := by
  cases b <;> rfl

/-- Settles O41. -/
theorem irqenHoldsOnlyTheEnable : Obligations.IrqenHoldsOnlyTheEnable := by
  refine ⟨hostWrite_irqen, fun s => ?_, rfl⟩
  rw [← irqenWord]
  exact hostRead_eq_readTarget (by decide) s

/-- The word registers of DIN, by their addresses (R71). -/
theorem din_address (i : Fin 4) :
    isBusError (BitVec.ofNat 19 (0x10 + 4 * i.val)) 32 = false ∧ targetOf (BitVec.ofNat 19 (0x10 + 4 * i.val)) = .din i := by
  revert i; decide

/-- The word registers of DOUT, by their addresses (R71). -/
theorem dout_address (i : Fin 4) :
    isBusError (BitVec.ofNat 19 (0x20 + 4 * i.val)) 32 = false ∧ targetOf (BitVec.ofNat 19 (0x20 + 4 * i.val)) = .dout i := by
  revert i; decide

theorem hostRead_id (s : State) : s.hostRead 0x00000#19 32 = { error := false, data := some 0x57420100#32 } :=
  hostRead_eq_readTarget (by decide) s

/-- Settles O42. -/
theorem constantAndReadOnlyRegisters : Obligations.ConstantAndReadOnlyRegisters := by
  refine fun s v => ⟨hostRead_id s, hostRead_eq_readTarget (by decide) s, hostWrite_eq_writeTarget (by decide) s v, by decide, fun i => ?_⟩
  obtain ⟨he, ht⟩ := dout_address i
  exact ⟨by rw [hostWrite_eq_writeTarget he, ht, writeTarget_dout], he⟩

/-- Settles O50. -/
theorem resetStateHoldsTheSpecValues : Obligations.ResetStateHoldsTheSpecValues :=
  ⟨by decide, rfl, rfl, rfl, fun k => ⟨zeroBlock_getElem k.val k.isLt, zeroBlock_getElem k.val k.isLt⟩, hostRead_id _, fun _ => image_unwritten rfl⟩

/-! ### DIN and DOUT -/

/-- Byte `b` of word register `i` is byte `4i + b` of the block (R74). -/
theorem byteOfWord_blockWord (x : Block) (i b : Fin 4) : byteOfWord (blockWord x i) b.val = x[4 * i.val + b.val] := by
  unfold blockWord
  match b with
  | 0 => exact byteOfWord_word4_zero _ _ _ _
  | 1 => exact byteOfWord_word4_one _ _ _ _
  | 2 => exact byteOfWord_word4_two _ _ _ _
  | 3 => exact byteOfWord_word4_three _ _ _ _

/-- Settles O44, by the bytes of a block word and of a block after a word write. -/
theorem blockWordsAreLittleEndian : Obligations.BlockWordsAreLittleEndian := by
  refine ⟨fun s i v hb => ?_, fun s i => ?_⟩
  · obtain ⟨he, ht⟩ := din_address i
    refine ⟨setBlockWord s.din i v, by rw [hostWrite_eq_writeTarget he, ht, writeTarget_din hb], fun b => ?_, fun k hk => ?_⟩
    · rw [setBlockWord_getElem, if_pos (by omega), show (4 * i.val + b.val) % 4 = b.val by omega, byteOfWord]
    · exact (setBlockWord_getElem s.din i v k.val k.isLt).trans (if_neg hk)
  · obtain ⟨he, ht⟩ := din_address i
    obtain ⟨he', ht'⟩ := dout_address i
    exact ⟨blockWord s.din i, blockWord s.dout i, by rw [hostRead_eq_readTarget he, ht]; rfl, by rw [hostRead_eq_readTarget he', ht']; rfl,
      fun b => ⟨byteOfWord_blockWord s.din i b, byteOfWord_blockWord s.dout i b⟩⟩

/-! ### WIGN and irq -/

/-- The addresses whose writes BUSY holds off: CMD, DINW and TMEM (R44). -/
theorem targetOf_of_held {a : HostAddr} (ha : a.toNat = 0x4 ∨ (0x10 ≤ a.toNat ∧ a.toNat ≤ 0x1C) ∨ 0x40000 ≤ a.toNat) :
    targetOf a = .cmd ∨ (∃ i, targetOf a = .din i) ∨ ∃ o, targetOf a = .tmem o := by
  obtain h | ⟨hlo, hhi⟩ | h := ha
  · left
    rw [show a = 0x00004#19 from BitVec.eq_of_toNat_eq h]
    rfl
  · exact .inr (.inl (targetOf_din_range hlo (by omega)))
  · exact .inr (.inr (targetOf_tmem_range h))

theorem engineTurn_wign {s t : State} (h : engineTurn s = .next t) : t.status.wign = s.status.wign := by
  cases hb : s.status.busy with
  | true => cases (engineTurn_eq_next_iff hb).1 h <;> rfl
  | false => cases (engineTurn_idle hb).symm.trans h; rfl

/-- Settles O40: the addresses are those of the targets BUSY holds off. -/
theorem busyWritesOnlySetWign : Obligations.BusyWritesOnlySetWign := by
  refine ⟨fun s a v hb h4 ha => ?_, fun s v hv => ?_, fun _ _ => rfl, fun _ _ => engineTurn_wign, rfl⟩
  · have ht := targetOf_of_held ha
    have hu : targetOf a ≠ .unmapped := by
      intro hu
      simp [hu] at ht
    rw [hostWrite_eq_writeTarget ((isBusError_eq_false_iff a 32).2 ⟨rfl, h4, hu⟩)]
    exact writeTarget_busy hb v ht
  · simp [hostWrite_status, hv]

/-- Settles O37: a completion sets DONE and keeps IE. -/
theorem interruptFollowsCompletionAndAcknowledge : Obligations.InterruptFollowsCompletionAndAcknowledge := by
  refine ⟨fun _ _ => rfl, fun s t ht hb hie h => ?_, fun s v hv => ?_, fun s v => ?_⟩
  · rw [step_eq, ht] at h
    obtain ⟨t', he, -, hdone, hie', -⟩ := engineTurn_completes (show s.popTurn.status.busy = true from hb)
    cases he.symm.trans h
    simp [State.irq, hdone, hie', hie]
  · simp [State.irq, hostWrite_status, hv]
  · simp [State.irq, hostWrite_irqen]

end Sys2Proof.Machine

/-! When a field of the block can change, field by field: over a host write, over a completion, and so over a step (R39, R42, R43, R45, R51, R53). -/

namespace Sys2Proof.Machine

section
variable {s t : State} {a : HostAddr} {bits : Nat} {v : Word}

/-- Only an accept changes BUSY or ERRCODE. -/
theorem WriteEffect.accept_or_kept (h : WriteEffect s a bits v t) :
    (s.status.busy = false ∧ bits = 32 ∧ a = 0x00004#19 ∧ t = s.accept v) ∨ (t.status.busy = s.status.busy ∧ t.status.errcode = s.status.errcode) := by
  cases h with
  | accept hb hbits ha => exact .inl ⟨hb, hbits, ha, rfl⟩
  | ignored | wign | status | irqen | din | tmem => exact .inr ⟨rfl, rfl⟩

theorem WriteEffect.output (h : WriteEffect s a bits v t) : t.dout = s.dout ∧ t.status.outlen = s.status.outlen := by
  cases h <;> exact ⟨rfl, rfl⟩

theorem WriteEffect.din_changed (h : WriteEffect s a bits v t) (hne : t.din ≠ s.din) :
    s.status.busy = false ∧ bits = 32 ∧ a.toNat % 4 = 0 ∧ 0x10 ≤ a.toNat ∧ a.toNat ≤ 0x1C := by
  cases h with
  | din i hb hbits h4 ha => exact ⟨hb, hbits, h4, ha⟩
  | ignored | wign | accept | status | irqen | tmem => exact absurd rfl hne

/-- Only an accepted TMEM write changes the table memory or TSV, and it clears TSV (R80). -/
theorem WriteEffect.tmem_or_kept (h : WriteEffect s a bits v t) :
    (t.status.tsv = false ∧ s.status.busy = false ∧ bits = 32 ∧ a.toNat % 4 = 0 ∧ 0x40000 ≤ a.toNat) ∨
    (t.status.tsv = s.status.tsv ∧ t.image = s.image) := by
  cases h with
  | tmem o _ hb hbits h4 ha => exact .inl ⟨rfl, hb, hbits, h4, ha⟩
  | ignored | wign | accept | status | irqen | din => exact .inr ⟨rfl, rfl⟩

theorem Completion.output_changed (h : Completion s t) (hne : t.dout ≠ s.dout ∨ t.status.outlen ≠ s.status.outlen) :
    t.status.err = false ∧ (decode s.lcmd = .ok .eval ∨ (∃ len, decode s.lcmd = .ok (.pad len)) ∨ decode s.lcmd = .ok .unpad) := by
  cases h with
  | evalOk hd => exact ⟨rfl, .inl hd⟩
  | pad hd => exact ⟨rfl, .inr (.inl ⟨_, hd⟩)⟩
  | unpadOk hd => exact ⟨rfl, .inr (.inr hd)⟩
  | evalBad | checkOk | checkBad | unpadBad | illegal => simp at hne

/-- A completion sets TSV, clears it with MalformedTableSet, or keeps it (R45). -/
theorem Completion.tsv_cases (h : Completion s t) :
    (t.status.tsv = true ∧ t.status.err = false ∧ (decode s.lcmd = .ok .check ∨ decode s.lcmd = .ok .eval)) ∨
    (t.status.tsv = false ∧ t.status.errcode = 1#3 ∧ (decode s.lcmd = .ok .check ∨ decode s.lcmd = .ok .eval)) ∨
    t.status.tsv = s.status.tsv := by
  cases h with
  | evalOk hd => exact .inl ⟨rfl, rfl, .inr hd⟩
  | checkOk hd => exact .inl ⟨rfl, rfl, .inl hd⟩
  | evalBad hd => exact .inr (.inl ⟨rfl, rfl, .inr hd⟩)
  | checkBad hd => exact .inr (.inl ⟨rfl, rfl, .inl hd⟩)
  | pad | unpadOk | unpadBad | illegal => exact .inr (.inr rfl)

theorem Completion.image (h : Completion s t) : t.image = s.image := by
  obtain ⟨-, hmem, hera⟩ := h.inputs
  unfold State.image
  rw [hmem, hera]

end

/-- Settles O54, by the kinds of step and of host write. -/
theorem errcodeIsZeroWithoutError : Obligations.ErrcodeIsZeroWithoutError := by
  refine ⟨fun s t hs h => (stepKind h).errOk hs, fun _ _ => rfl, fun _ _ => ⟨rfl, rfl⟩, fun s t ht hb h he => ?_, fun s a bits v hno => ?_⟩
  · exact ((step_engine_iff ht hb).1 h).errOk.errcode_of_not_err he
  · obtain ⟨hb, hbits, ha, -⟩ | ⟨-, hkept⟩ := (hostWrite_effect s a bits v).accept_or_kept
    · simp [hb, hbits, ha] at hno
    · exact hkept

/-- An engine's step leaves no command in flight. -/
theorem step_engine_busy {s t : State} (ht : s.turn = .engine) (h : step s = .next t) : t.status.busy = false := by
  cases hb : s.status.busy with
  | true => exact ((step_engine_iff ht hb).1 h).busy
  | false => cases (step_engine_idle ht hb).symm.trans h; exact hb

/-- A step that raises BUSY is the accept of a CMD write. -/
theorem StepKind.busy_rises {s t : State} (h : StepKind s t) (hs : s.status.busy = false) (ht : t.status.busy = true) :
    s.turn = .host ∧ ∃ v rest, s.host = .write 0x00004#19 32 v :: rest ∧ t.lcmd = v := by
  cases h with
  | reset => exact absurd ht Bool.false_ne_true
  | completion _ hb => exact absurd hb (by simp [hs])
  | @write a bits v rest t' hturn hh hw =>
    obtain ⟨-, rfl, rfl, rfl⟩ | ⟨hkept, -⟩ := hw.accept_or_kept
    · exact ⟨hturn, v, rest, hh, rfl⟩
    · exact absurd ht (by simp [hkept, hs])
  | blockKept => exact absurd ht (by simp [hs])

/-- A step that lowers BUSY is a completion or a reset. -/
theorem StepKind.busy_falls {s t : State} (h : StepKind s t) (hs : s.status.busy = true) (ht : t.status.busy = false) :
    s.turn = .engine ∨ s.turn = .reset := by
  cases h with
  | reset hturn => exact .inr hturn
  | completion hturn => exact .inl hturn
  | write _ _ hw =>
    obtain ⟨hb, -⟩ | ⟨hkept, -⟩ := hw.accept_or_kept
    · exact absurd hb (by simp [hs])
    · exact absurd ht (by simp [hkept, hs])
  | blockKept => exact absurd ht (by simp [hs])

/-- Settles O55, by the kinds of step. -/
theorem busyChangesOnlyAtAcceptCompletionReset : Obligations.BusyChangesOnlyAtAcceptCompletionReset := by
  refine ⟨fun s v hb => ?_, fun _ _ => step_engine_busy, fun s t ht h => ?_, fun s t h => ⟨(stepKind h).busy_rises, (stepKind h).busy_falls⟩⟩
  · rw [hostWrite_eq_writeTarget (by decide), show targetOf 0x00004#19 = .cmd from rfl, writeTarget_cmd hb]
    rfl
  · cases (step_reset ht).symm.trans h
    rfl

/-- Settles O56: of the kinds of step only a reset and a completion reach DOUT and OUTLEN. -/
theorem outputChangesOnlyAtSuccessfulCompletion : Obligations.OutputChangesOnlyAtSuccessfulCompletion := by
  intro s t h hne
  cases stepKind h with
  | reset hturn => exact .inl hturn
  | completion hturn hb hc => exact .inr ⟨hturn, hb, hc.output_changed hne⟩
  | write _ _ hw => simp [hw.output] at hne
  | blockKept => simp at hne

/-- A step other than reset that changes DIN is an idle host write to a DINW. -/
theorem StepKind.din_changed {s t : State} (h : StepKind s t) (hr : s.turn ≠ .reset) (hne : t.din ≠ s.din) :
    s.turn = .host ∧ s.status.busy = false ∧
      ∃ a v rest, s.host = .write a 32 v :: rest ∧ a.toNat % 4 = 0 ∧ 0x10 ≤ a.toNat ∧ a.toNat ≤ 0x1C := by
  cases h with
  | reset hturn => exact absurd hturn hr
  | completion _ _ hc => exact absurd hc.inputs.1 hne
  | write hturn hh hw =>
    obtain ⟨hb, rfl, ha⟩ := hw.din_changed hne
    exact ⟨hturn, hb, _, _, _, hh, ha⟩
  | blockKept => exact absurd rfl hne

/-- A step other than reset that changes a byte of TMEM is an idle host write to it. -/
theorem StepKind.image_changed {s t : State} (h : StepKind s t) (hr : s.turn ≠ .reset) (hne : ∃ o, t.image o ≠ s.image o) :
    s.turn = .host ∧ s.status.busy = false ∧ ∃ a v rest, s.host = .write a 32 v :: rest ∧ a.toNat % 4 = 0 ∧ 0x40000 ≤ a.toNat := by
  obtain ⟨o, ho⟩ := hne
  cases h with
  | reset hturn => exact absurd hturn hr
  | completion _ _ hc => exact absurd (congrFun hc.image o) ho
  | write hturn hh hw =>
    obtain ⟨-, hb, rfl, ha⟩ | ⟨-, hkept⟩ := hw.tmem_or_kept
    · exact ⟨hturn, hb, _, _, _, hh, ha⟩
    · exact absurd (congrFun hkept o) ho
  | blockKept => exact absurd rfl ho

/-- Settles O57, by the kinds of step. -/
theorem inputsChangeOnlyByIdleHostWrites : Obligations.InputsChangeOnlyByIdleHostWrites :=
  fun _ _ h hr => ⟨(stepKind h).din_changed hr, (stepKind h).image_changed hr⟩

/-- A step that raises TSV is the completion without error of CHECK or EVAL. -/
theorem StepKind.tsv_rises {s t : State} (h : StepKind s t) (hs : s.status.tsv = false) (ht : t.status.tsv = true) :
    s.turn = .engine ∧ s.status.busy = true ∧ t.status.err = false ∧ (decode s.lcmd = .ok .check ∨ decode s.lcmd = .ok .eval) := by
  cases h with
  | reset => exact absurd ht Bool.false_ne_true
  | completion hturn hb hc =>
    obtain ⟨-, he, hd⟩ | ⟨hf, -⟩ | hkept := hc.tsv_cases
    · exact ⟨hturn, hb, he, hd⟩
    · exact absurd ht (by simp [hf])
    · exact absurd ht (by simp [hkept, hs])
  | write _ _ hw =>
    obtain ⟨hf, -⟩ | ⟨hkept, -⟩ := hw.tmem_or_kept
    · exact absurd ht (by simp [hf])
    · exact absurd ht (by simp [hkept, hs])
  | blockKept => exact absurd ht (by simp [hs])

/-- A step that lowers TSV is a reset, a completion with MalformedTableSet, or an accepted TMEM write. -/
theorem StepKind.tsv_falls {s t : State} (h : StepKind s t) (hs : s.status.tsv = true) (ht : t.status.tsv = false) :
    s.turn = .reset ∨
    (s.turn = .engine ∧ s.status.busy = true ∧ t.status.errcode = 1#3 ∧ (decode s.lcmd = .ok .check ∨ decode s.lcmd = .ok .eval)) ∨
    (s.turn = .host ∧ s.status.busy = false ∧ ∃ a v rest, s.host = .write a 32 v :: rest ∧ a.toNat % 4 = 0 ∧ 0x40000 ≤ a.toNat) := by
  cases h with
  | reset hturn => exact .inl hturn
  | completion hturn hb hc =>
    obtain ⟨htrue, -⟩ | ⟨-, he, hd⟩ | hkept := hc.tsv_cases
    · exact absurd ht (by simp [htrue])
    · exact .inr (.inl ⟨hturn, hb, he, hd⟩)
    · exact absurd ht (by simp [hkept, hs])
  | write hturn hh hw =>
    obtain ⟨-, hb, rfl, ha⟩ | ⟨hkept, -⟩ := hw.tmem_or_kept
    · exact .inr (.inr ⟨hturn, hb, _, _, _, hh, ha⟩)
    · exact absurd ht (by simp [hkept, hs])
  | blockKept => exact absurd ht (by simp [hs])

/-- Settles O58, by the kinds of step. -/
theorem tsvChangesOnlyAsListed : Obligations.TsvChangesOnlyAsListed :=
  fun _ _ h => ⟨(stepKind h).tsv_rises, (stepKind h).tsv_falls⟩

end Sys2Proof.Machine

/-! The window as the host reads and writes it (spec/20_memory.md R72..R90): turns and their accesses, bus errors, and the TMEM words. -/

namespace Sys2Proof.Machine

/-! ### Turns -/

/-- Past its end the interleaving is the engine's while BUSY, else the host's (R283, log entry 4). -/
theorem turn_of_nil {s : State} (h : s.turns = []) : s.turn = if s.status.busy then .engine else .host := by
  simp [State.turn, h]

/-- A host turn whose next operation is a read gives its response and changes nothing else (R78). -/
theorem step_read {s : State} {a : HostAddr} {bits : Nat} {rest : List HostOp} (ht : s.turn = .host) (hh : s.host = .read a bits :: rest) :
    step s = .next (s.withHostSide rest s.turns.tail (s.hostRead a bits :: s.responses)) := by
  rw [step_eq, ht, takeTurn, hostTurn, popTurn_host, hh]
  rfl

/-- A host turn whose next operation is a write does the write and gives its response (R77). -/
theorem step_write {s : State} {a : HostAddr} {bits : Nat} {v : Word} {rest : List HostOp} (ht : s.turn = .host)
    (hh : s.host = .write a bits v :: rest) :
    step s = .next ((s.hostWrite a bits v).withHostSide rest s.turns.tail ({ error := isBusError a bits, data := none } :: s.responses)) := by
  have hw := hostWrite_withHostSide s rest s.turns.tail s.responses a bits v
  rw [step_eq, ht, takeTurn, hostTurn, popTurn_host, hh]
  exact congrArg (fun u : State => Host.Outcome.next (u.respond _)) hw

/-- Settles O8, by the rules for a turn past the end and for a host's read and write. -/
theorem turnFollowsTheInterleaving : Obligations.TurnFollowsTheInterleaving := by
  refine ⟨fun s => ⟨fun t ts h => ?_, fun h hb => ?_, fun h hb => ?_⟩, fun _ _ _ _ => step_read, fun _ _ _ _ _ => step_write⟩
  · rw [State.turn, h]
  · simp [turn_of_nil h, hb]
  · simp [turn_of_nil h, hb]

/-! ### Bus errors -/

theorem targetOf_eq_unmapped_iff (a : HostAddr) : targetOf a = .unmapped ↔ 0x30 ≤ a.toNat ∧ a.toNat ≤ 0x3FFFF := by
  unfold targetOf
  split_ifs <;> simp <;> omega

theorem hostRead_busError {a : HostAddr} {bits : Nat} (h : isBusError a bits = true) (s : State) :
    s.hostRead a bits = { error := true, data := some 0#32 } := by
  simp [State.hostRead, h]

theorem hostWrite_busError {a : HostAddr} {bits : Nat} (h : isBusError a bits = true) (s : State) (v : Word) : s.hostWrite a bits v = s := by
  simp [State.hostWrite, h]

/-- The accesses with a bus error, by width and address (R72, R73). -/
theorem isBusError_eq_true_iff (a : HostAddr) (bits : Nat) :
    isBusError a bits = true ↔ bits ≠ 32 ∨ a.toNat % 4 ≠ 0 ∨ (0x30 ≤ a.toNat ∧ a.toNat ≤ 0x3FFFF) := by
  rw [← targetOf_eq_unmapped_iff]
  simp [isBusError, or_assoc]

/-- Settles O47: the two cases are those of `isBusError`. -/
theorem busErrorsHaveNoEffect : Obligations.BusErrorsHaveNoEffect := by
  refine fun s a bits v => ⟨fun h => ?_, fun hbits h4 ha => ?_⟩
  · have he := (isBusError_eq_true_iff a bits).2 h
    exact ⟨he, hostRead_busError he s, hostWrite_busError he s v⟩
  · have he : isBusError a bits = false := Bool.eq_false_iff.2 fun h => by
      have := (isBusError_eq_true_iff a bits).1 h
      omega
    subst hbits
    exact ⟨he, by rw [hostRead_eq_readTarget he]⟩

/-! ### TMEM words -/

theorem targetOf_of_tmem_le {a : HostAddr} (h : 0x40000 ≤ a.toNat) : targetOf a = .tmem (a.toNat - 0x40000) := by
  obtain ⟨o, ho⟩ := targetOf_tmem_range h
  rw [ho]
  unfold targetOf at ho
  split_ifs at ho
  exact ho.symm

theorem isBusError_tmem {a : HostAddr} (h : 0x40000 ≤ a.toNat) (h4 : a.toNat % 4 = 0) : isBusError a 32 = false :=
  (isBusError_eq_false_iff a 32).2 ⟨rfl, h4, by simp [targetOf_of_tmem_le h]⟩

/-- A TMEM read gives the four bytes at its offset (R81). -/
theorem hostRead_tmem (s : State) {a : HostAddr} (h : 0x40000 ≤ a.toNat) (h4 : a.toNat % 4 = 0) :
    s.hostRead a 32 = { error := false, data := some (memRead4 s.image (a.toNat - 0x40000)) } := by
  rw [hostRead_eq_readTarget (isBusError_tmem h h4), targetOf_of_tmem_le h, State.readTarget]

theorem hostWrite_tmem (s : State) {a : HostAddr} (h : 0x40000 ≤ a.toNat) (h4 : a.toNat % 4 = 0) (v : Word) :
    s.hostWrite a 32 v = s.writeTarget (.tmem (a.toNat - 0x40000)) v := by
  rw [hostWrite_eq_writeTarget (isBusError_tmem h h4), targetOf_of_tmem_le h]

/-- Byte `i` of a word read from an image (R12). -/
theorem byteOfWord_memRead4 (t : Image) (k : Nat) (i : Fin 4) : byteOfWord (memRead4 t k) i.val = t (k + i.val) := by
  unfold memRead4
  match i with
  | 0 => exact byteOfWord_word4_zero _ _ _ _
  | 1 => exact byteOfWord_word4_one _ _ _ _
  | 2 => exact byteOfWord_word4_two _ _ _ _
  | 3 => exact byteOfWord_word4_three _ _ _ _

/-- Settles O46: a read's step records its response only, and that response holds the word of TMEM. -/
theorem readsHaveNoSideEffectAndTmemReadsItsBytes : Obligations.ReadsHaveNoSideEffectAndTmemReadsItsBytes := by
  refine fun s a bits rest ht hh => ⟨s.hostRead a bits, step_read ht hh, fun ha h4 hbits => ?_⟩
  exact ⟨_, hbits ▸ hostRead_tmem s ha h4, byteOfWord_memRead4 s.image _⟩

/-- Settles O45: a write while BUSY, and the bytes of the image after an accepted one. -/
theorem tmemWriteReplacesFourBytes : Obligations.TmemWriteReplacesFourBytes := by
  intro s a v ha h4
  rw [hostWrite_tmem s ha h4]
  refine ⟨fun hb => writeTarget_busy hb v (.inr (.inr ⟨_, rfl⟩)), fun hb => ?_⟩
  rw [writeTarget_tmem hb, setTsv_image]
  refine ⟨_, rfl, fun b => ?_, fun o ho => ?_⟩
  · rw [image_writeWord, if_pos (by omega), Nat.add_sub_cancel_left, byteOfWord]
  · rw [image_writeWord, if_neg (by omega)]

/-! ### The header -/

/-- The direction byte is byte 0 of the third header word (R83, R86). -/
theorem dirb_eq_byteOfWord (t : Image) : dirb t = byteOfWord (memRead4 t 0x08) 0 := (byteOfWord_memRead4 t 0x08 0).symm

/-- The words of a header that passes, the direction byte added to the third (R86). -/
theorem memRead4_of_hdrOK {t : Image} (h : hdrOK t = true) :
    memRead4 t 0x00 = 0x45414257#32 ∧ memRead4 t 0x04 = 0x38323153#32 ∧ memRead4 t 0x08 = 0x10100A00#32 + (dirb t).setWidth 32 ∧
    memRead4 t 0x0C = 0x04010100#32 ∧ memRead4 t 0x10 = 0x0002E020#32 ∧
    memRead4 t 0x14 = 0#32 ∧ memRead4 t 0x18 = 0#32 ∧ memRead4 t 0x1C = 0#32 := by
  simp only [hdrOK, Bool.and_eq_true, Bool.or_eq_true, beq_iff_eq] at h
  obtain ⟨⟨⟨⟨⟨⟨⟨h0, h4⟩, h8⟩, hC⟩, h10⟩, h14⟩, h18⟩, h1C⟩ := h
  refine ⟨h0, h4, ?_, hC, h10, h14, h18, h1C⟩
  rw [dirb_eq_byteOfWord]
  obtain h8 | h8 := h8 <;> rw [h8] <;> rfl

/-- Settles O14: each address is a TMEM word of the header. -/
theorem headerReadsAsTheListedHostWords : Obligations.HeaderReadsAsTheListedHostWords := by
  intro s h
  obtain ⟨h0, h4, h8, hC, h10, h14, h18, h1C⟩ := memRead4_of_hdrOK h
  have read {a : HostAddr} {w : Word} (ha : 0x40000 ≤ a.toNat) (ha4 : a.toNat % 4 = 0) (hw : memRead4 s.image (a.toNat - 0x40000) = w) :
      s.hostRead a 32 = { error := false, data := some w } := hw ▸ hostRead_tmem s ha ha4
  exact ⟨read (by decide) rfl h0, read (by decide) rfl h4, read (by decide) rfl h8, read (by decide) rfl hC, read (by decide) rfl h10,
    read (by decide) rfl h14, read (by decide) rfl h18, read (by decide) rfl h1C⟩

end Sys2Proof.Machine

/-! Which offsets an evaluation reads, layer by layer, and that its output depends on no other byte (spec/20_memory.md R96, spec/40_cipher.md R151). -/

namespace Sys2Proof.Machine

section
variable {t t' : Image} {p : Wiring} {r : Nat} {s u b : Block} {P : Nat → Prop}

/-! ### The offsets read -/

/-- The offsets that one SUB layer reads: an entry of each lane's table (R84). -/
theorem forall_subOps_offsets : (∀ a ∈ (subOps p r s).flatMap NetOp.offsets, P a) ↔ ∀ j : Lane, P (subOff r j.val + (wire p s)[j].toNat) := by
  simp [subOps, NetOp.offsets, List.flatMap_map]

/-- The offsets that one column reads: the four bytes of an entry of each of its lanes' tables (R85). -/
theorem forall_columnOps_offsets (c : Fin 4) :
    (∀ a ∈ (columnOps r u c).flatMap NetOp.offsets, P a) ↔
      ∀ i k : Fin 4, P (mcOff r (4 * c.val + i.val) + 4 * u[4 * c.val + i.val].toNat + k.val) := by
  simp [columnOps, NetOp.offsets, Fin.forall_fin_succ, and_assoc]

theorem forall_roundOps_offsets :
    (∀ a ∈ (roundOps t p r s).flatMap NetOp.offsets, P a) ↔
      (∀ a ∈ (subOps p r s).flatMap NetOp.offsets, P a) ∧
      ∀ c : Fin 4, ∀ a ∈ (columnOps r (subLayer t r (wire p s)) c).flatMap NetOp.offsets, P a := by
  simp only [roundOps, List.flatMap_append, List.forall_mem_append, List.flatMap_assoc, List.forall_mem_flatMap, List.mem_finRange, true_imp_iff]

theorem forall_netOps_offsets :
    (∀ a ∈ (netOps t p b).flatMap NetOp.offsets, P a) ↔
      (∀ n < 9, ∀ a ∈ (roundOps t p (n + 1) (netRounds t p n b)).flatMap NetOp.offsets, P a) ∧
      ∀ a ∈ (subOps p 10 (netRounds t p 9 b)).flatMap NetOp.offsets, P a := by
  simp only [netOps, List.flatMap_append, List.forall_mem_append, List.flatMap_assoc, List.forall_mem_flatMap, List.mem_range]

/-! ### They lie in the artifact -/

/-- Every SUB entry lies in the artifact (R82, R84). -/
theorem subOffset_in_artifact (hr : 1 ≤ r) (hr' : r ≤ 10) (j : Lane) (x : Byte) :
    0x20 ≤ subOff r j.val + x.toNat ∧ subOff r j.val + x.toNat < Config.tsBytes := by
  simp only [subOff, Config.tsBytes]
  omega

/-- Every byte of every MC entry lies in the artifact (R82, R85). -/
theorem mcOffset_in_artifact (hr : 1 ≤ r) (hr' : r ≤ 9) {j : Nat} (hj : j < 16) (y : Byte) (k : Fin 4) :
    0x20 ≤ mcOff r j + 4 * y.toNat + k.val ∧ mcOff r j + 4 * y.toNat + k.val < Config.tsBytes := by
  simp only [mcOff, Config.tsBytes]
  omega

theorem netOps_offsets_in_artifact (t : Image) (p : Wiring) (b : Block) :
    ∀ a ∈ (netOps t p b).flatMap NetOp.offsets, 0x20 ≤ a ∧ a < Config.tsBytes := by
  refine forall_netOps_offsets.2 ⟨fun n hn => forall_roundOps_offsets.2 ⟨?_, fun c => ?_⟩, ?_⟩
  · exact forall_subOps_offsets.2 fun j => subOffset_in_artifact (by omega) (by omega) j _
  · exact (forall_columnOps_offsets c).2 fun i k => mcOffset_in_artifact (by omega) (by omega) (by omega) _ k
  · exact forall_subOps_offsets.2 fun j => subOffset_in_artifact (by omega) (by omega) j _

/-! ### The output depends on no other offset -/

theorem subLayer_eq_of_reads (h : ∀ a ∈ (subOps p r s).flatMap NetOp.offsets, t a = t' a) :
    subLayer t r (wire p s) = subLayer t' r (wire p s) := by
  refine block_ext fun k hk => ?_
  rw [subLayer_getElem, subLayer_getElem]
  exact forall_subOps_offsets.1 h ⟨k, hk⟩

theorem mcColumn_eq_of_reads {c : Fin 4} (h : ∀ a ∈ (columnOps r u c).flatMap NetOp.offsets, t a = t' a) :
    mcColumn t r u c = mcColumn t' r u c := by
  have hread := (forall_columnOps_offsets c).1 h
  have entry (i : Fin 4) :
      mcEntry t r (4 * c.val + i.val) u[4 * c.val + i.val] = mcEntry t' r (4 * c.val + i.val) u[4 * c.val + i.val] :=
    word4_inj.2 ⟨hread i 0, hread i 1, hread i 2, hread i 3⟩
  unfold mcColumn
  exact congrArg₂ (· ^^^ ·) (congrArg₂ (· ^^^ ·) (congrArg₂ (· ^^^ ·) (entry 0) (entry 1)) (entry 2)) (entry 3)

theorem netRound_eq_of_reads (h : ∀ a ∈ (roundOps t p r s).flatMap NetOp.offsets, t a = t' a) : netRound t p r s = netRound t' p r s := by
  obtain ⟨hsub, hmc⟩ := forall_roundOps_offsets.1 h
  rw [netRound, netRound, ← subLayer_eq_of_reads hsub]
  refine block_ext fun k hk => ?_
  rw [mcLayer_getElem, mcLayer_getElem, mcColumn_eq_of_reads (hmc _)]

/-- The rounds before round `n + 1` agree, so both images are read at the same offsets in it. -/
theorem netRounds_eq_of_reads (h : ∀ n < 9, ∀ a ∈ (roundOps t p (n + 1) (netRounds t p n b)).flatMap NetOp.offsets, t a = t' a) {n : Nat}
    (hn : n ≤ 9) : netRounds t p n b = netRounds t' p n b := by
  induction n with
  | zero => rfl
  | succ n ih => rw [netRounds, netRounds, ← ih (by omega), netRound_eq_of_reads (h n hn)]

theorem wb_eq_of_reads (h : ∀ a ∈ (netOps t p b).flatMap NetOp.offsets, t a = t' a) : wb t p b = wb t' p b := by
  obtain ⟨hrounds, hlast⟩ := forall_netOps_offsets.1 h
  calc wb t p b = subLayer t 10 (wire p (netRounds t p 9 b)) := rfl
    _ = subLayer t' 10 (wire p (netRounds t p 9 b)) := subLayer_eq_of_reads hlast
    _ = subLayer t' 10 (wire p (netRounds t' p 9 b)) := by rw [netRounds_eq_of_reads hrounds le_rfl]
    _ = wb t' p b := rfl

end

/-- Settles O20, layer by layer. -/
theorem networkReadsOnlyTheArtifact : Obligations.NetworkReadsOnlyTheArtifact :=
  ⟨netOps_offsets_in_artifact, fun _ _ _ _ => wb_eq_of_reads⟩

end Sys2Proof.Machine

/-! The command words: their fields, the encoder and the decoder (spec/30_encoding.md R110..R122). -/

namespace Sys2Proof.Machine

/-! ### Fields -/

/-- A word is its three fields (R111). -/
theorem word_eq_iff_fields (v w : Word) :
    v = w ↔ opField v = opField w ∧ lenField v = lenField w ∧ rsvdField v = rsvdField w := by
  refine ⟨fun h => h ▸ ⟨rfl, rfl, rfl⟩, fun ⟨hop, hlen, hrsvd⟩ => BitVec.eq_of_getLsbD_eq fun n hn => ?_⟩
  have bit {start len : Nat} (h : v.extractLsb' start len = w.extractLsb' start len) (hlo : start ≤ n) (hhi : n < start + len) :
      v.getLsbD n = w.getLsbD n := by
    have hb := congrArg (BitVec.getLsbD · (n - start)) h
    simpa [show n - start < len by omega, show start + (n - start) = n by omega] using hb
  by_cases h4 : n < 4
  · exact bit hop (by omega) (by omega)
  by_cases h9 : n < 9
  · exact bit hlen (by omega) (by omega)
  · exact bit hrsvd (by omega) (by omega)

theorem encode_fields (i : Instr) : opField (encode i) = opcode i ∧ lenField (encode i) = lenOperand i ∧ rsvdField (encode i) = 0#23 := by
  cases i with
  | eval => exact Laws.EncodingFields.eval
  | pad len => exact Laws.EncodingFields.pad len
  | unpad => exact Laws.EncodingFields.unpad
  | check => exact Laws.EncodingFields.check

/-- The word of a command is the one with its opcode, its operand and RSVD zero (R111, R112). -/
theorem encode_eq_iff (i : Instr) (v : Word) : encode i = v ↔ opField v = opcode i ∧ lenField v = lenOperand i ∧ rsvdField v = 0#23 := by
  obtain ⟨hop, hlen, hrsvd⟩ := encode_fields i
  rw [word_eq_iff_fields, hop, hlen, hrsvd, eq_comm, eq_comm (a := lenOperand i), eq_comm (a := 0#23)]

/-! ### The decoder -/

/-- What the decoder reads: the opcode, the operand, which must be legal, and RSVD (R114). -/
theorem decode_eq_ok_iff_fields (v : Word) (i : Instr) :
    decode v = .ok i ↔ i.WellFormed ∧ opField v = opcode i ∧ lenField v = lenOperand i ∧ rsvdField v = 0#23 := by
  constructor
  · intro h
    unfold decode at h
    split_ifs at h with hrsvd hop hlen hop' hlen hop'' hlen hop''' hlen <;> cases h
    · exact ⟨trivial, hop, hlen, not_not.1 hrsvd⟩
    · exact ⟨hlen, hop', rfl, not_not.1 hrsvd⟩
    · exact ⟨trivial, hop'', hlen, not_not.1 hrsvd⟩
    · exact ⟨trivial, hop''', hlen, not_not.1 hrsvd⟩
  · rintro ⟨hwf, hop, hlen, hrsvd⟩
    cases i with
    | pad len => simpa [decode, hop, hlen, hrsvd, opcode, lenOperand] using hwf
    | eval | unpad | check => simp [decode, hop, hlen, hrsvd, opcode, lenOperand]

/-- The words that decode are the words of the well-formed commands. -/
theorem decode_eq_ok_iff (v : Word) (i : Instr) : decode v = .ok i ↔ i.WellFormed ∧ encode i = v := by
  rw [decode_eq_ok_iff_fields, encode_eq_iff]

theorem decode_encode {i : Instr} (h : i.WellFormed) : decode (encode i) = .ok i := (decode_eq_ok_iff _ i).2 ⟨h, rfl⟩

/-- Settles O1, both directions being those of `decode_eq_ok_iff`. -/
theorem decodeAndEncodeAgree : Obligations.DecodeAndEncodeAgree :=
  ⟨fun _ => decode_encode, fun v i => (decode_eq_ok_iff v i).1⟩

/-! ### The legal words -/

/-- The word of PAD, as R119 writes it. -/
theorem encode_pad (len : BitVec 5) : encode (.pad len) = BitVec.ofNat 32 (16 * len.toNat + 2) := by
  revert len; decide

theorem toNat_len_of_le {m : Nat} (hm : m ≤ 15) : (BitVec.ofNat 5 m).toNat = m := by
  rw [BitVec.toNat_ofNat]
  omega

theorem encode_pad_ofNat {m : Nat} (hm : m ≤ 15) : encode (.pad (BitVec.ofNat 5 m)) = BitVec.ofNat 32 (16 * m + 2) := by
  rw [encode_pad, toNat_len_of_le hm]

theorem decode_pad {m : Nat} (hm : m ≤ 15) : decode (BitVec.ofNat 32 (16 * m + 2)) = .ok (.pad (BitVec.ofNat 5 m)) := by
  rw [← encode_pad_ofNat hm]
  exact decode_encode ((toNat_len_of_le hm).trans_le hm)

theorem mem_legalWords_iff (v : Word) :
    v ∈ legalWords ↔ v = 0x00000001#32 ∨ v = 0x00000003#32 ∨ v = 0x00000004#32 ∨ ∃ m ≤ 15, v = BitVec.ofNat 32 (16 * m + 2) := by
  simp only [legalWords, List.mem_append, List.mem_cons, List.not_mem_nil, or_false, List.mem_map, List.mem_range, or_assoc, eq_comm (a := v),
    Nat.lt_succ_iff]

/-- Each listed word decodes, and each well-formed command has its word in the list. -/
theorem exists_decode_iff_mem_legalWords (v : Word) : (∃ i, decode v = .ok i) ↔ v ∈ legalWords := by
  rw [mem_legalWords_iff]
  constructor
  · rintro ⟨i, hi⟩
    obtain ⟨hwf, rfl⟩ := (decode_eq_ok_iff v i).1 hi
    cases i with
    | eval => exact .inl rfl
    | unpad => exact .inr (.inl rfl)
    | check => exact .inr (.inr (.inl rfl))
    | pad len => exact .inr (.inr (.inr ⟨len.toNat, hwf, encode_pad len⟩))
  · rintro (rfl | rfl | rfl | ⟨m, hm, rfl⟩)
    · exact ⟨.eval, rfl⟩
    · exact ⟨.unpad, rfl⟩
    · exact ⟨.check, rfl⟩
    · exact ⟨_, decode_pad hm⟩

/-- Settles O2. -/
theorem legalWordsAreExactlyNineteen : Obligations.LegalWordsAreExactlyNineteen :=
  ⟨rfl, rfl, rfl, fun _ => decode_pad, rfl, by decide, exists_decode_iff_mem_legalWords⟩

/-- Settles O5, by the words of the four commands. -/
theorem commandPseudoOpsWriteTheEncodedWord : Obligations.CommandPseudoOpsWriteTheEncodedWord := by
  refine ⟨rfl, rfl, rfl, fun m hm => ?_⟩
  rw [encode_pad_ofNat hm]
  rfl

/-! ### The illegal words -/

/-- The classes (a) to (d) of R118, on the fields of the word. -/
theorem illegalWord_iff_fields (v : Word) : IllegalWord v ↔
    rsvdField v ≠ 0#23 ∨ (opField v = 0#4 ∨ 5 ≤ (opField v).toNat) ∨
    ((opField v = 1#4 ∨ opField v = 3#4 ∨ opField v = 4#4) ∧ lenField v ≠ 0#5) ∨ (opField v = 2#4 ∧ 16 ≤ (lenField v).toNat) := Iff.rfl

/-- The reserved opcodes are those of no command (R112, R118(b)). -/
theorem reservedOp_of_ne : ∀ op : BitVec 4, op ≠ 1#4 → op ≠ 2#4 → op ≠ 3#4 → op ≠ 4#4 → op = 0#4 ∨ 5 ≤ op.toNat := by
  decide

/-- Each rejection is one of the classes (a) to (d) of R118. -/
theorem illegalWord_of_decode_eq_error {v : Word} {r : DecodeReject} (h : decode v = .error r) : IllegalWord v := by
  unfold decode at h
  split_ifs at h with hrsvd h1 hlen h2 hlen h3 hlen h4 hlen
  · exact .inl hrsvd
  · exact .inr (.inr (.inl ⟨.inl h1, hlen⟩))
  · exact .inr (.inr (.inr ⟨h2, Nat.not_le.1 hlen⟩))
  · exact .inr (.inr (.inl ⟨.inr (.inl h3), hlen⟩))
  · exact .inr (.inr (.inl ⟨.inr (.inr h4), hlen⟩))
  · exact .inr (.inl (reservedOp_of_ne _ h1 h2 h3 h4))

/-- A word that decodes falls in none of the classes (a) to (d). -/
theorem not_illegalWord_of_decode_eq_ok {v : Word} {i : Instr} (h : decode v = .ok i) : ¬ IllegalWord v := by
  obtain ⟨hwf, hop, hlen, hrsvd⟩ := (decode_eq_ok_iff_fields v i).1 h
  rw [illegalWord_iff_fields, hop, hlen, hrsvd]
  cases i with
  | pad len => simpa [opcode, lenOperand, Nat.lt_succ_iff] using hwf
  | eval | unpad | check => simp [opcode, lenOperand]

theorem illegalWord_iff (v : Word) : IllegalWord v ↔ ∃ r, decode v = .error r := by
  refine ⟨fun h => ?_, fun ⟨_, h⟩ => illegalWord_of_decode_eq_error h⟩
  cases hd : decode v with
  | error r => exact ⟨r, rfl⟩
  | ok i => exact absurd h (not_illegalWord_of_decode_eq_ok hd)

theorem illegalWord_iff_not_decode (v : Word) : IllegalWord v ↔ ¬ ∃ i, decode v = .ok i := by
  rw [illegalWord_iff]
  cases decode v <;> simp

/-- Settles O3: the classes are the decoder's rejections, and a rejected word completes with IllegalCommand. -/
theorem illegalWordsCompleteWithIllegalCommand : Obligations.IllegalWordsCompleteWithIllegalCommand := by
  refine ⟨illegalWord_iff_not_decode, fun s hb h => ?_⟩
  obtain ⟨r, hr⟩ := (illegalWord_iff s.lcmd).1 h
  exact engineTurn_illegal hb hr

/-- Settles O4: the three illegal words are of the classes (d), (c) and (b). -/
theorem encodingExamplesDecode : Obligations.EncodingExamplesDecode := by
  refine ⟨rfl, rfl, rfl, rfl, rfl, rfl, rfl, rfl, ?_⟩
  simp only [← illegalWord_iff_not_decode, List.forall_mem_cons]
  exact ⟨.inr (.inr (.inr (by decide))), .inr (.inr (.inl (by decide))), .inr (.inl (by decide)), by simp⟩

/-- Settles O28: the term's meaning is that of the word (R118(d), log entry 9). -/
theorem padLengthAbove15IsIllegal : Obligations.PadLengthAbove15IsIllegal :=
  fun s _ h => execPad_bad (Nat.not_le.2 h) s

end Sys2Proof.Machine

/-! A command word from the CMD write to its completion: the accept, and what every command's completion leaves (R113, R117, R152, R157, R190). -/

namespace Sys2Proof.Machine

/-! ### The accept -/

theorem hostWrite_cmd (s : State) (v : Word) : s.hostWrite 0x00004#19 32 v = s.writeTarget .cmd v :=
  hostWrite_eq_writeTarget (by decide) s v

theorem hostWrite_cmd_idle {s : State} (hb : s.status.busy = false) (v : Word) : s.hostWrite 0x00004#19 32 v = s.accept v :=
  (hostWrite_cmd s v).trans (writeTarget_cmd hb v)

/-- Settles O38: the accept, and the write that BUSY holds off. -/
theorem cmdWriteAccepts : Obligations.CmdWriteAccepts :=
  ⟨by decide, fun _ v hb => hostWrite_cmd_idle hb v, fun s v hb => (hostWrite_cmd s v).trans (writeTarget_busy hb v (.inl rfl))⟩

/-! ### Frames of the commands -/

/-- PAD and UNPAD write an output or raise an error. -/
theorem exec_codec_cases {i : Instr} {s t : State} (hi : i ≠ .eval ∧ i ≠ .check) (h : exec i s = .next t) :
    (∃ o n, t = (s.output o n).complete) ∨ ∃ e, t = s.raiseError e := by
  obtain ⟨heval, hcheck⟩ := hi
  cases i with
  | eval => exact absurd rfl heval
  | check => exact absurd rfl hcheck
  | pad len =>
    by_cases hlen : lenValue len ≤ 15
    · cases (execPad_ok hlen s).symm.trans h; exact .inl ⟨_, _, rfl⟩
    · cases (execPad_bad hlen s).symm.trans h; exact .inr ⟨_, rfl⟩
  | unpad =>
    cases hp : padOK s.din with
    | true => cases (execUnpad_ok hp).symm.trans h; exact .inl ⟨_, _, rfl⟩
    | false => cases (execUnpad_bad hp).symm.trans h; exact .inr ⟨_, rfl⟩

/-- CHECK records the header it found. -/
theorem exec_check_cases {s t : State} (h : exec .check s = .next t) : t = s.noteHeader.complete ∨ t = s.refuseHeader := by
  cases hh : hdrOK s.image with
  | true => cases (execCheck_ok hh).symm.trans h; exact .inl rfl
  | false => cases (execCheck_bad hh).symm.trans h; exact .inr rfl

/-- Only EVAL touches σ and r (R55). -/
theorem exec_keeps_walk {i : Instr} {s t : State} (hi : i ≠ .eval) (h : exec i s = .next t) :
    t.sigma = s.sigma ∧ t.round = s.round ∧ t.freeCount = s.freeCount := by
  by_cases hc : i = .check
  · subst hc
    obtain rfl | rfl := exec_check_cases h <;> exact ⟨rfl, rfl, rfl⟩
  · obtain ⟨o, n, rfl⟩ | ⟨e, rfl⟩ := exec_codec_cases ⟨hi, hc⟩ h <;> exact ⟨rfl, rfl, rfl⟩

/-- PAD and UNPAD do not look at the header (R190). -/
theorem exec_codec_keeps_header {i : Instr} {s t : State} (hi : i ≠ .eval ∧ i ≠ .check) (h : exec i s = .next t) :
    t.status.tsv = s.status.tsv ∧ t.status.dir = s.status.dir := by
  obtain ⟨o, n, rfl⟩ | ⟨e, rfl⟩ := exec_codec_cases hi h <;> exact ⟨rfl, rfl⟩

/-- CHECK produces no output (R157). -/
theorem exec_check_keeps_output {s t : State} (h : exec .check s = .next t) : t.dout = s.dout ∧ t.status.outlen = s.status.outlen := by
  obtain rfl | rfl := exec_check_cases h <;> exact ⟨rfl, rfl⟩

theorem image_congr {s t : State} (hm : t.tmem = s.tmem) (he : t.era = s.era) : t.image = s.image := by
  unfold State.image
  rw [hm, he]

/-- Settles O34: every command completes, and each frame holds of what it answers. -/
theorem commandFrames : Obligations.CommandFrames := by
  intro i s
  obtain ⟨t, h, -, -, hie, hl, hdin, hm, he, hhost, hturns, hresp, hwign⟩ := exec_completes i s
  refine ⟨t, h, hdin, hie, hl, hwign, congrFun (image_congr hm he), he, hhost, hturns, hresp, fun hi => exec_keeps_walk hi h,
    fun hi => exec_codec_keeps_header hi h, fun hi => ?_⟩
  subst hi
  exact exec_check_keeps_output h

end Sys2Proof.Machine

/-! What a host program sees: POLL and the machine's one stop, the block transfers, and a command issued and waited for (R120, R121). -/

namespace Sys2Proof.Machine

/-! ### POLL -/

theorem hostTurn_poll {s : State} {a : HostAddr} {mask value : Word} {rest : List HostOp} (hh : s.host = .poll a mask value :: rest) :
    hostTurn s =
      if pollDone (s.hostRead a 32) mask value then .next ({ s with host := rest }.respond (s.hostRead a 32))
      else if s.status.busy || s.turns.contains .reset then .next (s.respond (s.hostRead a 32))
      else .fault .pollNeverEnds := by
  rw [hostTurn, hh]

/-- The three outcomes of a host turn at a POLL: it ends, it stays, or it can never end (R120, log entry 6). -/
theorem step_poll {s : State} {a : HostAddr} {mask value : Word} {rest : List HostOp} (ht : s.turn = .host)
    (hh : s.host = .poll a mask value :: rest) :
    step s =
      if pollDone (s.hostRead a 32) mask value then .next (s.withHostSide rest s.turns.tail (s.hostRead a 32 :: s.responses))
      else if s.status.busy || s.turns.tail.contains .reset then .next (s.withHostSide s.host s.turns.tail (s.hostRead a 32 :: s.responses))
      else .fault .pollNeverEnds := by
  rw [step_eq, ht]
  exact hostTurn_poll (s := s.popTurn) hh

theorem step_poll_done {s : State} {a : HostAddr} {mask value : Word} {rest : List HostOp} (ht : s.turn = .host)
    (hh : s.host = .poll a mask value :: rest) (hp : pollDone (s.hostRead a 32) mask value = true) :
    step s = .next (s.withHostSide rest s.turns.tail (s.hostRead a 32 :: s.responses)) :=
  (step_poll ht hh).trans (if_pos hp)

theorem step_poll_again {s : State} {a : HostAddr} {mask value : Word} {rest : List HostOp} (ht : s.turn = .host)
    (hh : s.host = .poll a mask value :: rest) (hp : pollDone (s.hostRead a 32) mask value = false)
    (hw : s.status.busy = true ∨ Turn.reset ∈ s.turns.tail) :
    step s = .next (s.withHostSide s.host s.turns.tail (s.hostRead a 32 :: s.responses)) := by
  rw [step_poll ht hh, if_neg (Bool.eq_false_iff.1 hp), if_pos (by simpa using hw)]

/-- Settles O10, by the two outcomes that go on. -/
theorem pollRepeatsUntilItsCondition : Obligations.PollRepeatsUntilItsCondition :=
  fun _ _ _ _ _ ht hh => ⟨fun h => step_poll_done ht hh (beq_iff_eq.2 h), fun h => step_poll_again ht hh (beq_eq_false_iff_ne.2 h)⟩

/-! ### The machine's one stop -/

/-- A host turn whose POLL can never hold: its condition fails, and nothing is left that could change what it reads (U18, log entry 6). -/
def State.PollIsHopeless (s : State) : Prop :=
  s.turn = .host ∧ s.status.busy = false ∧ Turn.reset ∉ s.turns.tail ∧
    ∃ a mask value rest, s.host = .poll a mask value :: rest ∧ pollDone (s.hostRead a 32) mask value = false

theorem step_of_pollIsHopeless {s : State} (h : s.PollIsHopeless) : step s = .fault .pollNeverEnds := by
  obtain ⟨ht, hb, hr, a, mask, value, rest, hh, hp⟩ := h
  rw [step_poll ht hh, if_neg (Bool.eq_false_iff.1 hp), if_neg (by simp [hb, hr])]

theorem engineTurn_goes_on (s : State) : ∃ t, engineTurn s = .next t := by
  cases hb : s.status.busy with
  | true => exact (engineTurn_completes hb).imp fun _ h => h.1
  | false => exact ⟨s, engineTurn_idle hb⟩

/-- Every other step goes on. -/
theorem step_goes_on {s : State} (h : ¬ s.PollIsHopeless) : ∃ t, step s = .next t := by
  cases ht : s.turn with
  | reset => exact ⟨_, step_reset ht⟩
  | engine =>
    rw [step_eq, ht]
    exact engineTurn_goes_on s.popTurn
  | host =>
    cases hh : s.host with
    | nil => exact ⟨s.popTurn, by rw [step_eq, ht, takeTurn, hostTurn, popTurn_host, hh]⟩
    | cons op rest =>
      cases op with
      | read a bits => exact ⟨_, step_read ht hh⟩
      | write a bits v => exact ⟨_, step_write ht hh⟩
      | poll a mask value =>
        cases hp : pollDone (s.hostRead a 32) mask value with
        | true => exact ⟨_, step_poll_done ht hh hp⟩
        | false =>
          by_cases hw : s.status.busy = true ∨ Turn.reset ∈ s.turns.tail
          · exact ⟨_, step_poll_again ht hh hp hw⟩
          · obtain ⟨hb, hr⟩ := not_or.1 hw
            exact absurd ⟨ht, Bool.eq_false_iff.2 hb, hr, a, mask, value, rest, hh, hp⟩ h

theorem step_ne_refused (s : State) (r : Refusal) : step s ≠ .refused r := by
  intro h
  by_cases hp : s.PollIsHopeless
  · cases (step_of_pollIsHopeless hp).symm.trans h
  · obtain ⟨t, ht⟩ := step_goes_on hp
    cases ht.symm.trans h

theorem step_eq_fault_iff (s : State) (f : Fault) : step s = .fault f ↔ f = .pollNeverEnds ∧ s.PollIsHopeless := by
  refine ⟨fun h => ?_, fun ⟨hf, hp⟩ => hf ▸ step_of_pollIsHopeless hp⟩
  by_cases hp : s.PollIsHopeless
  · cases (step_of_pollIsHopeless hp).symm.trans h
    exact ⟨rfl, hp⟩
  · obtain ⟨t, ht⟩ := step_goes_on hp
    cases ht.symm.trans h

/-- What a POLL compares: the target's word, and 0 with a bus error (R72, R120). -/
theorem hostRead_data (s : State) (a : HostAddr) (bits : Nat) :
    (s.hostRead a bits).data = some (if isBusError a bits then 0#32 else s.readTarget (targetOf a)) := by
  unfold State.hostRead
  split <;> rfl

theorem pollDone_hostRead_eq_false_iff (s : State) (a : HostAddr) (mask value : Word) :
    pollDone (s.hostRead a 32) mask value = false ↔ (if isBusError a 32 then 0#32 else s.readTarget (targetOf a)) &&& mask ≠ value := by
  rw [pollDone, hostRead_data, Option.getD_some, beq_eq_false_iff_ne]

/-- Settles O9: a step goes on unless its POLL is hopeless. -/
theorem stepStopsOnlyOnHopelessPoll : Obligations.StepStopsOnlyOnHopelessPoll := by
  refine ⟨step_ne_refused, fun s f => ?_⟩
  rw [step_eq_fault_iff, State.PollIsHopeless]
  simp only [pollDone_hostRead_eq_false_iff]

/-! ### LDBLK and RDBLK -/

/-- Whose turn it is past the end of the interleaving, with no command in flight. -/
theorem turn_of_idle {s : State} (ht : s.turns = []) (hb : s.status.busy = false) : s.turn = .host := by
  rw [turn_of_nil ht, hb]
  rfl

theorem ldblk_eq_map (b : Block) :
    HostProgram.ldblk b = (List.finRange 4).map fun i => HostProgram.wr32 (BitVec.ofNat 19 (0x10 + 4 * i.val)) (blockWord b i) := rfl

theorem rdblk_eq_map : HostProgram.rdblk = (List.finRange 4).map fun i => HostProgram.rd32 (BitVec.ofNat 19 (0x20 + 4 * i.val)) := rfl

/-- Byte `k` of a block is in its word register `k / 4` (R74). -/
theorem byteOfWord_blockWord_of_lt (x : Block) (k : Nat) (hk : k < 16) : byteOfWord (blockWord x ⟨k / 4, by omega⟩) (k % 4) = x[k] := by
  simpa only [Nat.div_add_mod] using byteOfWord_blockWord x ⟨k / 4, by omega⟩ ⟨k % 4, by omega⟩

/-- Writes of word registers of DIN on an idle block, as many steps as there are words. -/
theorem run_dinWrites (b : Block) (is : List (Fin 4)) (rest : List HostOp) {s : State} (ht : s.turns = []) (hb : s.status.busy = false)
    (hh : s.host = (is.map fun i => HostProgram.wr32 (BitVec.ofNat 19 (0x10 + 4 * i.val)) (blockWord b i)) ++ rest) :
    ∃ rs, Host.Core.run core is.length s =
      .next { s with din := is.foldl (fun x i => setBlockWord x i (blockWord b i)) s.din, host := rest, responses := rs ++ s.responses } := by
  induction is generalizing s with
  | nil =>
    obtain rfl : s.host = rest := hh
    exact ⟨[], rfl⟩
  | cons i is ih =>
    obtain ⟨he, hi⟩ := din_address i
    have hstep := step_write (turn_of_idle ht hb) hh
    rw [hostWrite_eq_writeTarget he, hi, writeTarget_din hb, he] at hstep
    obtain ⟨rs, hrun⟩ := ih (s := State.withHostSide { s with din := setBlockWord s.din i (blockWord b i) } _ s.turns.tail _)
      (by rw [ht]; rfl) hb rfl
    refine ⟨rs ++ [{ error := false, data := none }], (run_of_next hstep).trans (hrun.trans ?_)⟩
    simp [State.withHostSide, ht]

theorem foldl_setBlockWord_getElem (b x : Block) (is : List (Fin 4)) (k : Nat) (hk : k < 16) :
    (is.foldl (fun x i => setBlockWord x i (blockWord b i)) x)[k] = if ⟨k / 4, by omega⟩ ∈ is then b[k] else x[k] := by
  induction is generalizing x with
  | nil => simp
  | cons i is ih =>
    rw [List.foldl_cons, ih, setBlockWord_getElem]
    by_cases hi : k / 4 = i.val
    · have hlane : (⟨k / 4, by omega⟩ : Fin 4) = i := Fin.ext hi
      have hbyte := byteOfWord_blockWord_of_lt b k hk
      rw [hlane] at hbyte
      simp [hi, hbyte]
    · simp [hi, Fin.ext_iff]

/-- The four words of a block written to DIN, over whatever it held. -/
theorem foldl_setBlockWord (b x : Block) : (List.finRange 4).foldl (fun x i => setBlockWord x i (blockWord b i)) x = b :=
  block_ext fun k hk => (foldl_setBlockWord_getElem b x (List.finRange 4) k hk).trans (if_pos (List.mem_finRange _))

/-- Reads of word registers of DOUT on an idle block, as many steps as there are words. -/
theorem run_doutReads (is : List (Fin 4)) (rest : List HostOp) {s : State} (ht : s.turns = []) (hb : s.status.busy = false)
    (hh : s.host = (is.map fun i => HostProgram.rd32 (BitVec.ofNat 19 (0x20 + 4 * i.val))) ++ rest) :
    Host.Core.run core is.length s =
      .next { s with host := rest, responses := (is.map fun i => ⟨false, some (blockWord s.dout i)⟩).reverse ++ s.responses } := by
  induction is generalizing s with
  | nil =>
    obtain rfl : s.host = rest := hh
    rfl
  | cons i is ih =>
    obtain ⟨he, hi⟩ := dout_address i
    have hstep := step_read (turn_of_idle ht hb) hh
    rw [hostRead_eq_readTarget he, hi, State.readTarget] at hstep
    refine (run_of_next hstep).trans (Eq.trans (ih (by rw [ht]; rfl) hb rfl) ?_)
    simp [State.withHostSide, ht]

/-- The block assembled from the four words of a block is that block (R121). -/
theorem rdblkBlock_blockWords (x : Block) : HostProgram.rdblkBlock #v[blockWord x 0, blockWord x 1, blockWord x 2, blockWord x 3] = x := by
  refine block_ext fun k hk => ?_
  have hword : (#v[blockWord x 0, blockWord x 1, blockWord x 2, blockWord x 3] : Vector Word 4) = Vector.ofFn (blockWord x) := rfl
  simp [HostProgram.rdblkBlock, hword, byteOfWord_blockWord_of_lt x k hk]

/-- Settles O48, by the two runs and what the four words make. -/
theorem ldblkFillsDinAndRdblkGivesDout : Obligations.LdblkFillsDinAndRdblkGivesDout := by
  refine ⟨fun s b rest ht hb hh => ?_, fun s rest ht hb hh => ?_⟩
  · obtain ⟨rs, hrun⟩ := run_dinWrites b (List.finRange 4) rest ht hb hh
    rw [foldl_setBlockWord] at hrun
    exact ⟨rs, hrun⟩
  · exact ⟨_, run_doutReads (List.finRange 4) rest ht hb hh, rfl, congrArg some (rdblkBlock_blockWords s.dout)⟩

/-! ### WAIT -/

/-- WAIT's condition on STATUS: BUSY = 0 and DONE = 1 (R121). -/
theorem Status.toWord_and_three {st : Status} (hb : st.busy = false) (hd : st.done = true) : st.toWord &&& 3#32 = 2#32 := by
  refine BitVec.eq_of_getLsbD_eq fun n hn => ?_
  rw [BitVec.getLsbD_and, Status.toWord_getLsbD]
  match n with
  | 0 => simp [hb]
  | 1 => simp [hd]
  | n + 2 => simp [BitVec.getLsbD_ofNat, Nat.testBit_succ]

theorem pollDone_wait {s : State} (hb : s.status.busy = false) (hd : s.status.done = true) :
    pollDone (s.hostRead 0x00008#19 32) 3#32 2#32 = true := by
  rw [hostRead_eq_readTarget (by decide)]
  exact beq_iff_eq.2 (Status.toWord_and_three hb hd)

/-- Settles O49: the accept, the completion, and the poll that it satisfies. -/
theorem commandThenWaitCompletes : Obligations.CommandThenWaitCompletes := by
  intro s v rest ht hb hh
  have haccept := step_write (turn_of_idle ht hb) hh
  rw [hostWrite_cmd_idle hb, ht] at haccept
  obtain ⟨t, hcomplete, htb, htd, -, htl, -, -, -, hthost, htturns, -⟩ :=
    engineTurn_completes (s := (s.accept v).withHostSide (HostProgram.wait ++ rest) [] _) rfl
  have hengine := (step_busy_default rfl rfl).trans hcomplete
  have hpoll := step_poll_done (turn_of_idle htturns htb) hthost (pollDone_wait htb htd)
  exact ⟨_, (run_of_next haccept).trans ((run_of_next hengine).trans (run_of_next hpoll)), rfl, htb, htd, htl⟩

end Sys2Proof.Machine

/-! The cipher family of commands: the header that EVAL and CHECK look at, and what each of them does with it
(spec/40_cipher.md R141, R153, R158, spec/20_memory.md R83). -/

namespace Sys2Proof.Machine

/-! ### The header -/

/-- A word read is its four bytes (R12). -/
theorem memRead4_eq_iff (t : Image) (a : Nat) (w : Word) : memRead4 t a = w ↔ ∀ i : Fin 4, t (a + i.val) = byteOfWord w i.val := by
  rw [← word4_byteOfWord w, memRead4, word4_inj]
  simp [Fin.forall_fin_succ]

/-- The eight comparisons of HdrOK (R141). -/
theorem hdrOK_iff_words (t : Image) : hdrOK t = true ↔
    memRead4 t 0x00 = 0x45414257#32 ∧ memRead4 t 0x04 = 0x38323153#32 ∧ (memRead4 t 0x08 = 0x10100A00#32 ∨ memRead4 t 0x08 = 0x10100A01#32) ∧
    memRead4 t 0x0C = 0x04010100#32 ∧ memRead4 t 0x10 = 0x0002E020#32 ∧
    memRead4 t 0x14 = 0#32 ∧ memRead4 t 0x18 = 0#32 ∧ memRead4 t 0x1C = 0#32 := by
  simp only [hdrOK, Bool.and_eq_true, Bool.or_eq_true, beq_iff_eq, and_assoc]

/-- The reserved bytes are the last three words (R83). -/
theorem reserved_iff_words (t : Image) : (∀ a, 0x14 ≤ a → a ≤ 0x1F → t a = 0x00#8) ↔
    memRead4 t 0x14 = 0#32 ∧ memRead4 t 0x18 = 0#32 ∧ memRead4 t 0x1C = 0#32 := by
  have zero (i : Fin 4) : byteOfWord 0#32 i.val = 0#8 := by revert i; decide
  simp only [memRead4_eq_iff, zero]
  refine ⟨fun h => ⟨fun i => h _ (by omega) (by omega), fun i => h _ (by omega) (by omega), fun i => h _ (by omega) (by omega)⟩, ?_⟩
  rintro ⟨h14, h18, h1C⟩ a hlo hhi
  obtain h | h | h : a < 0x18 ∨ (0x18 ≤ a ∧ a < 0x1C) ∨ 0x1C ≤ a := by omega
  · rw [← Nat.add_sub_of_le hlo]
    exact h14 ⟨a - 0x14, by omega⟩
  · rw [← Nat.add_sub_of_le h.1]
    exact h18 ⟨a - 0x18, by omega⟩
  · rw [← Nat.add_sub_of_le h]
    exact h1C ⟨a - 0x1C, by omega⟩
/-- A word of the header is its four bytes (R12, R74). -/
theorem memRead4_eq_word4_iff {t : Image} {a : Nat} {w : Word} {b0 b1 b2 b3 : Byte} (hw : w = word4 b0 b1 b2 b3) :
    memRead4 t a = w ↔ t a = b0 ∧ t (a + 1) = b1 ∧ t (a + 2) = b2 ∧ t (a + 3) = b3 := by
  rw [hw, memRead4, word4_inj]

/-- Settles O13: each word comparison is four byte comparisons, and the two third words differ in DIR alone. -/
theorem headerPredicateIsTheHeaderTable : Obligations.HeaderPredicateIsTheHeaderTable := by
  intro t
  have magic0 := memRead4_eq_word4_iff (t := t) (a := 0x00) (show 0x45414257#32 = word4 0x57 0x42 0x41 0x45 by decide)
  have magic4 := memRead4_eq_word4_iff (t := t) (a := 0x04) (show 0x38323153#32 = word4 0x53 0x31 0x32 0x38 by decide)
  have dirE := memRead4_eq_word4_iff (t := t) (a := 0x08) (show 0x10100A00#32 = word4 0x00 0x0A 0x10 0x10 by decide)
  have dirD := memRead4_eq_word4_iff (t := t) (a := 0x08) (show 0x10100A01#32 = word4 0x01 0x0A 0x10 0x10 by decide)
  have version := memRead4_eq_word4_iff (t := t) (a := 0x0C) (show 0x04010100#32 = word4 0x00 0x01 0x01 0x04 by decide)
  have length := memRead4_eq_word4_iff (t := t) (a := 0x10) (show 0x0002E020#32 = word4 0x20 0xE0 0x02 0x00 by decide)
  simp only [hdrOK_iff_words, reserved_iff_words, magic0, magic4, dirE, dirD, version, length, ← or_and_right, and_assoc]
  rfl
/-! ### What the two commands do -/

/-- Settles O11: the walk through σ and r computes the network (R55). -/
theorem evalFollowsItsRule : Obligations.EvalFollowsItsRule := by
  refine ⟨fun s h => ?_, fun s h => ⟨_, _, _, execEval_bad h⟩⟩
  have hcomplete := execEval_ok h
  rw [evalBlock_eq_wb] at hcomplete
  exact ⟨_, _, _, hcomplete⟩

/-- Settles O12. -/
theorem checkRecordsTheHeader : Obligations.CheckRecordsTheHeader :=
  ⟨fun _ => execCheck_ok, fun _ => execCheck_bad⟩

/-! ### What the commands depend on -/

section
variable {t t' : Image}

/-- The header lies in the artifact (R82). -/
theorem header_congr (h : ∀ a, a < Config.tsBytes → t a = t' a) (a : Nat) (ha : a < 0x20) : t a = t' a :=
  h a (by simp only [Config.tsBytes]; omega)

theorem hdrOK_congr (h : ∀ a, a < 0x20 → t a = t' a) : hdrOK t = hdrOK t' := by
  simp only [hdrOK, memRead4]
  simp (disch := decide) only [h]

theorem dirb_congr (h : ∀ a, a < 0x20 → t a = t' a) : dirb t = dirb t' := h 8 (by decide)

end

theorem evalBlock_congr {s s' : State} (hdin : s.din = s'.din) (h : ∀ a, a < Config.tsBytes → s.image a = s'.image a) :
    s.evalBlock = s'.evalBlock := by
  rw [evalBlock_eq_wb, evalBlock_eq_wb, wb_congr h, dirb_congr (header_congr h), hdin]

/-- Settles O21: both states take the same branch of the command's rule, and write what DIN and the artifact determine. -/
theorem resultsDependOnlyOnDinAndTables : Obligations.ResultsDependOnlyOnDinAndTables := by
  intro i s s' hdin h
  have hh := hdrOK_congr (header_congr h)
  have hdir := dirb_congr (header_congr h)
  cases i with
  | eval =>
    cases hs : hdrOK s.image with
    | true => exact ⟨_, _, execEval_ok hs, execEval_ok (hh ▸ hs), by simp [evalBlock_congr hdin h, hdir]⟩
    | false => exact ⟨_, _, execEval_bad hs, execEval_bad (hh ▸ hs), by simp⟩
  | pad len =>
    by_cases hlen : lenValue len ≤ 15
    · exact ⟨_, _, execPad_ok hlen s, execPad_ok hlen s', by simp [hdin]⟩
    · exact ⟨_, _, execPad_bad hlen s, execPad_bad hlen s', by simp⟩
  | unpad =>
    cases hp : padOK s.din with
    | true => exact ⟨_, _, execUnpad_ok hp, execUnpad_ok (hdin ▸ hp), by simp [hdin]⟩
    | false => exact ⟨_, _, execUnpad_bad hp, execUnpad_bad (hdin ▸ hp), by simp⟩
  | check =>
    cases hs : hdrOK s.image with
    | true => exact ⟨_, _, execCheck_ok hs, execCheck_ok (hh ▸ hs), by simp [hdir]⟩
    | false => exact ⟨_, _, execCheck_bad hs, execCheck_bad (hh ▸ hs), by simp⟩

end Sys2Proof.Machine

/-! The table network: its two wirings, the outputs that zero and identity tables give, which lanes an MC table reaches, and the kinds of operation
of an evaluation (spec/40_cipher.md R147..R151, R155). -/

namespace Sys2Proof.Machine

/-! ### The wirings -/

theorem wirings_inverse : ∀ j : Lane, wiringE[wiringD[j]] = j ∧ wiringD[wiringE[j]] = j := by decide

theorem wirings_square_eq : ∀ j : Lane, wiringE[wiringE[j]] = wiringD[wiringD[j]] := by decide

theorem wire_wiringE_wiringD (b : Block) : wire wiringE (wire wiringD b) = b :=
  block_ext fun k hk => by
    rw [wire_getElem, wire_getElem]
    exact congrArg (fun j : Lane => b[j]) (wirings_inverse ⟨k, hk⟩).2

theorem wire_wiringD_wiringE (b : Block) : wire wiringD (wire wiringE b) = b :=
  block_ext fun k hk => by
    rw [wire_getElem, wire_getElem]
    exact congrArg (fun j : Lane => b[j]) (wirings_inverse ⟨k, hk⟩).1

theorem wire_square_eq (b : Block) : wire wiringE (wire wiringE b) = wire wiringD (wire wiringD b) :=
  block_ext fun k hk => by
    simp only [wire_getElem]
    exact congrArg (fun j : Lane => b[j]) (wirings_square_eq ⟨k, hk⟩)

/-- The squares are equal, so the fourth power of a wiring is its square after that of its inverse. -/
theorem wire_fourth {p : Wiring} (hp : p = wiringE ∨ p = wiringD) (b : Block) : wire p (wire p (wire p (wire p b))) = b := by
  obtain rfl | rfl := hp
  · rw [wire_square_eq (wire _ _), wire_wiringD_wiringE, wire_wiringD_wiringE]
  · rw [← wire_square_eq (wire _ _), wire_wiringE_wiringD, wire_wiringE_wiringD]

/-- Settles O15: finite facts about the lanes, and their consequences for blocks. -/
theorem wiringsAreShiftRowsAndItsInverse : Obligations.WiringsAreShiftRowsAndItsInverse :=
  ⟨by decide, by decide, wirings_inverse, fun b => ⟨wire_fourth (.inl rfl) b, wire_fourth (.inr rfl) b⟩, wire_square_eq⟩

/-! ### Zero tables and identity tables -/

/-- The output of the network is the last round's SUB lookups (R148, R150). -/
theorem wb_eq_subLayer (t : Image) (p : Wiring) (b : Block) : wb t p b = subLayer t 10 (wire p (netRounds t p 9 b)) := rfl

/-- Settles O16: whatever round 10 looks up lies in the zero tables. -/
theorem zeroTablesGiveZeroOutput : Obligations.ZeroTablesGiveZeroOutput := by
  intro t p b h j
  rw [wb_eq_subLayer]
  refine (subLayer_getElem t 10 _ j.val j.isLt).trans ?_
  obtain ⟨hlo, hhi⟩ := subOffset_in_artifact (r := 10) (by decide) le_rfl j (wire p (netRounds t p 9 b))[j]
  exact h _ hlo hhi

section
variable {t t' : Image} {p : Wiring} {r : Nat}

theorem subLayer_of_identity (h : ∀ (j : Lane) x, subEntry t r j.val x = x) (x : Block) : subLayer t r x = x :=
  block_ext fun k hk => (subLayer_getElem t r x k hk).trans (h ⟨k, hk⟩ _)

/-- MC entries that place `y` at lane `j mod 4`: the column XOR puts the four bytes beside each other. -/
theorem mcLayer_of_identity (h : ∀ (j : Lane) y, mcEntry t r j.val y = BitVec.setWidth 32 y <<< (8 * (j.val % 4))) (u : Block) :
    mcLayer t r u = u := by
  have entry (c : Fin 4) (i k : Nat) (hi : i < 4) (hk : k < 4) (y : Byte) :
      byteOfWord (mcEntry t r (4 * c.val + i) y) k = if k = i then y else 0#8 := by
    rw [h ⟨4 * c.val + i, by omega⟩, show (4 * c.val + i) % 4 = i by omega, byteOfWord_shift y hk hi]
  refine block_ext fun k hk => ?_
  have hmod : k % 4 < 4 := by omega
  rw [mcLayer_getElem, mcColumn, byteOfWord_xor, byteOfWord_xor, byteOfWord_xor, entry _ 1 _ (by omega) hmod, entry _ 2 _ (by omega) hmod,
    entry _ 3 _ (by omega) hmod]
  have entry0 := entry ⟨k / 4, by omega⟩ 0 _ (by omega) hmod
  rw [Nat.add_zero] at entry0
  rw [entry0]
  obtain hc | hc | hc | hc : k % 4 = 0 ∨ k % 4 = 1 ∨ k % 4 = 2 ∨ k % 4 = 3 := by omega
  · simp [hc, show 4 * (k / 4) = k by omega]
  · simp [hc, show 4 * (k / 4) + 1 = k by omega]
  · simp [hc, show 4 * (k / 4) + 2 = k by omega]
  · simp [hc, show 4 * (k / 4) + 3 = k by omega]

/-- Settles O17: every round is the wiring alone, and eight of the ten cancel. -/
theorem identityTablesGiveTheWiringSquared : Obligations.IdentityTablesGiveTheWiringSquared := by
  intro t p b hp hsub hmc
  have hround (n : Nat) (hn : n < 9) (s : Block) : netRound t p (n + 1) s = wire p s := by
    rw [netRound, subLayer_of_identity fun j x => hsub _ j x (by omega) (by omega), mcLayer_of_identity fun j y => hmc _ j y (by omega) (by omega)]
  have hrounds (n : Nat) (hn : n ≤ 9) : netRounds t p n b = (wire p)^[n] b := by
    induction n with
    | zero => rfl
    | succ n ih => rw [netRounds, ih (by omega), hround n (by omega), Function.iterate_succ_apply']
  rw [wb_eq_subLayer, subLayer_of_identity fun j x => hsub _ j x (by omega) le_rfl, hrounds 9 le_rfl]
  show wire p (wire p (wire p (wire p (wire p (wire p (wire p (wire p (wire p (wire p b))))))))) = _
  rw [wire_fourth hp, wire_fourth hp]

/-! ### Columns -/

/-- A column depends on the MC entries of its four lanes (R149). -/
theorem mcColumn_congr {u u' : Block} {c : Fin 4}
    (h : ∀ i : Fin 4, mcEntry t r (4 * c.val + i.val) u[4 * c.val + i.val] = mcEntry t' r (4 * c.val + i.val) u'[4 * c.val + i.val]) :
    mcColumn t r u c = mcColumn t' r u' c :=
  congrArg₂ (· ^^^ ·) (congrArg₂ (· ^^^ ·) (congrArg₂ (· ^^^ ·) (h 0) (h 1)) (h 2)) (h 3)

end

/-- Settles O18: lane `l` is none of the four lanes that a column other than its own looks up. -/
theorem mcTableTouchesOnlyItsColumn : Obligations.McTableTouchesOnlyItsColumn := by
  intro t t' p r l s hsub hmc k hk
  have hlayer : subLayer t r (wire p s) = subLayer t' r (wire p s) := block_ext fun j hj => by
    rw [subLayer_getElem, subLayer_getElem, hsub ⟨j, hj⟩]
  have entry (i : Fin 4) (y : Byte) : mcEntry t r (4 * (k.val / 4) + i.val) y = mcEntry t' r (4 * (k.val / 4) + i.val) y := by
    refine hmc ⟨4 * (k.val / 4) + i.val, by omega⟩ y fun heq => hk ?_
    have hval : 4 * (k.val / 4) + i.val = l.val := congrArg Fin.val heq
    omega
  have hcolumn (u : Block) : mcColumn t r u ⟨k.val / 4, by omega⟩ = mcColumn t' r u ⟨k.val / 4, by omega⟩ :=
    mcColumn_congr fun i => entry i _
  rw [netRound, netRound, hlayer, Fin.getElem_fin, Fin.getElem_fin, mcLayer_getElem, mcLayer_getElem, hcolumn]

/-! ### Kinds of operation -/

/-- The kinds of a wiring and its 16 SUB reads, in order (R151). -/
def subKinds : List NetKind := .wiring :: List.replicate 16 .sub

/-- The kinds of one of the rounds 1..9: `subKinds`, then four MC reads and an XOR for each column (R151). -/
def roundKinds : List NetKind := subKinds ++ (List.replicate 4 [.mc, .mc, .mc, .mc, .xor]).flatten

/-- The kinds of an evaluation (R151). -/
def netKinds : List NetKind := (List.replicate 9 roundKinds).flatten ++ subKinds

theorem kinds_subOps (p : Wiring) (r : Nat) (s : Block) : (subOps p r s).map NetOp.kind = subKinds := rfl

theorem kinds_roundOps (t : Image) (p : Wiring) (r : Nat) (s : Block) : (roundOps t p r s).map NetOp.kind = roundKinds := rfl

theorem kinds_netOps (t : Image) (p : Wiring) (b : Block) : (netOps t p b).map NetOp.kind = netKinds := by
  simp only [netOps, List.map_append, List.map_flatMap, kinds_roundOps, kinds_subOps]
  rfl

theorem count_netKinds (k : NetKind) : netKinds.count k = 9 * roundKinds.count k + subKinds.count k := by
  rw [netKinds, List.count_append, List.count_flatten, List.map_replicate, List.sum_replicate_nat]

/-- Settles O19: the kinds are one fixed list. -/
theorem networkOperationsNeverVary : Obligations.NetworkOperationsNeverVary := by
  refine ⟨fun t t' p p' b b' => (kinds_netOps t p b).trans (kinds_netOps t' p' b').symm, fun t p b => ?_⟩
  simp only [kinds_netOps, count_netKinds]
  decide

end Sys2Proof.Machine

/-! The host's contract on AES output: the reference table-sets conform, AES decryption undoes encryption, and what EVAL does with a table-set that
conforms (spec/40_cipher.md R156, R160..R162). -/

namespace Sys2Proof.Machine

open Sys2Proof.Machine.Aes

/-! ### The reference table-sets -/

/-- A state that walks the rounds of a direction's AES: AddRoundKey of the absorbed key, then substitution, wiring and column matrix (R162). -/
def AesWalk (d : Direction) (k b : Block) (f : Nat → Block) : Prop :=
  f 0 = addRoundKey b (refKey d k 0) ∧ ∀ n < 9, f (n + 1) = addRoundKey (mixWith d.matrix (wire d.wiring (d.subAll (f n)))) (refKey d k (n + 1))

theorem encryptRounds_walk (k b : Block) : AesWalk .encrypt k b (encryptRounds k b) := by
  refine ⟨rfl, fun n _ => ?_⟩
  rw [encryptRounds, shiftRows_subBytes]
  rfl

/-- InvMixColumns is linear, so it may be taken of the round key (K9). -/
theorem decryptRounds_walk (k c : Block) : AesWalk .decrypt k c (decryptRounds k c) := by
  refine ⟨rfl, fun n hn => ?_⟩
  rw [decryptRounds, invSubBytes_invShiftRows, invMixColumns, mixWith_addRoundKey, show 9 - n = 10 - (n + 1) by omega]
  rfl

/-- The network keeps the walk's state without the key that its next round absorbs. -/
theorem AesWalk.eq_netRounds {d : Direction} {k b : Block} {f : Nat → Block} (h : AesWalk d k b f) {n : Nat} (hn : n ≤ 9) :
    f n = addRoundKey (netRounds (refImage d k) d.wiring n b) (refKey d k n) := by
  obtain ⟨hzero, hsucc⟩ := h
  induction n with
  | zero => exact hzero
  | succ n ih => rw [hsucc n hn, ih (by omega), netRounds, refImage_netRound d k (by omega) hn, Nat.add_sub_cancel]

theorem AesWalk.wb_refImage {d : Direction} {k b : Block} {f : Nat → Block} (h : AesWalk d k b f) :
    wb (refImage d k) d.wiring b = addRoundKey (wire d.wiring (d.subAll (f 9))) (refLastKey d k) := by
  rw [h.eq_netRounds le_rfl]
  exact refImage_lastRound d k _

theorem wb_refImage (d : Direction) (k b : Block) : wb (refImage d k) d.wiring b = d.aes k b := by
  cases d with
  | encrypt =>
    show _ = encrypt k b
    rw [(encryptRounds_walk k b).wb_refImage, encrypt, shiftRows_subBytes]
    rfl
  | decrypt =>
    show _ = decrypt k b
    rw [(decryptRounds_walk k b).wb_refImage, decrypt, invSubBytes_invShiftRows]
    rfl

/-- Settles O22. -/
theorem referenceTableSetsConform : Obligations.ReferenceTableSetsConform := fun d k =>
  ⟨hdrOK_refImage d k, rfl, wb_refImage d k⟩

/-! ### AES decryption undoes encryption -/

theorem invSbox_sbox : ∀ x : Byte, invSbox (sbox x) = x := by decide +kernel

theorem invSubBytes_subBytes (s : Block) : invSubBytes (subBytes s) = s :=
  block_ext fun k hk => by rw [invSubBytes_getElem, subBytes_getElem, invSbox_sbox]

theorem invShiftRows_shiftRows (s : Block) : invShiftRows (shiftRows s) = s := wire_wiringD_wiringE s

theorem addRoundKey_addRoundKey (s x : Block) : addRoundKey (addRoundKey s x) x = s :=
  block_ext fun k hk => by rw [addRoundKey_getElem, addRoundKey_getElem, BitVec.xor_assoc, BitVec.xor_self, BitVec.xor_zero]

/-! The products of the entries of the two column matrices, written with `xtime`: every power of it cancels or leaves the argument alone. -/

theorem gmul_one (x : Byte) : gmul 1 x = x := by simp [gmul, gmulBits]
theorem gmul_two (x : Byte) : gmul 2 x = xtime x := by simp [gmul, gmulBits]
theorem gmul_three (x : Byte) : gmul 3 x = x ^^^ xtime x := by simp [gmul, gmulBits]
theorem gmul_nine (x : Byte) : gmul 9 x = x ^^^ xtime (xtime (xtime x)) := by simp [gmul, gmulBits]
theorem gmul_eleven (x : Byte) : gmul 11 x = x ^^^ (xtime x ^^^ xtime (xtime (xtime x))) := by simp [gmul, gmulBits]
theorem gmul_thirteen (x : Byte) : gmul 13 x = x ^^^ (xtime (xtime x) ^^^ xtime (xtime (xtime x))) := by simp [gmul, gmulBits]
theorem gmul_fourteen (x : Byte) : gmul 14 x = xtime x ^^^ (xtime (xtime x) ^^^ xtime (xtime (xtime x))) := by simp [gmul, gmulBits]

/-- Term `a` of entry `d` of the first row of Mi times M: both matrices are rotations of their first rows (K8). -/
def mixProductTerm (d a : Fin 4) (x : Byte) : Byte :=
  gmul (#v[14, 11, 13, 9] : Vector Byte 4)[a] (gmul (#v[2, 3, 1, 1] : Vector Byte 4)[d - a] x)

theorem mixProduct_firstRow (d : Fin 4) (x : Byte) :
    mixProductTerm d 0 x ^^^ mixProductTerm d 1 x ^^^ mixProductTerm d 2 x ^^^ mixProductTerm d 3 x = if d = 0 then x else 0#8 := by
  have entries :
      gmul 14 (gmul 2 x) ^^^ gmul 11 (gmul 1 x) ^^^ gmul 13 (gmul 1 x) ^^^ gmul 9 (gmul 3 x) = x ∧
      gmul 14 (gmul 3 x) ^^^ gmul 11 (gmul 2 x) ^^^ gmul 13 (gmul 1 x) ^^^ gmul 9 (gmul 1 x) = 0#8 ∧
      gmul 14 (gmul 1 x) ^^^ gmul 11 (gmul 3 x) ^^^ gmul 13 (gmul 2 x) ^^^ gmul 9 (gmul 1 x) = 0#8 ∧
      gmul 14 (gmul 1 x) ^^^ gmul 11 (gmul 1 x) ^^^ gmul 13 (gmul 3 x) ^^^ gmul 9 (gmul 2 x) = 0#8 := by
    simp only [gmul_one, gmul_two, gmul_three, gmul_nine, gmul_eleven, gmul_thirteen, gmul_fourteen, xtime_xor]
    ac_nf
    simp
  obtain ⟨h0, h1, h2, h3⟩ := entries
  match d with
  | 0 => exact h0
  | 1 => exact h1
  | 2 => exact h2
  | 3 => exact h3

/-- An XOR over the four places of a column, from any of them on. -/
theorem xor_four_rotate (f : Fin 4 → Byte) (i : Fin 4) : f (0 - i) ^^^ f (1 - i) ^^^ f (2 - i) ^^^ f (3 - i) = f 0 ^^^ f 1 ^^^ f 2 ^^^ f 3 := by
  match i with
  | 0 => rfl
  | 1 => show f 3 ^^^ f 0 ^^^ f 1 ^^^ f 2 = _; ac_rfl
  | 2 => show f 2 ^^^ f 3 ^^^ f 0 ^^^ f 1 = _; ac_rfl
  | 3 => show f 1 ^^^ f 2 ^^^ f 3 ^^^ f 0 = _; ac_rfl

/-- The product of the two column matrices is the identity (K8). -/
theorem invMixMatrix_mul_mixMatrix (i j : Fin 4) (x : Byte) :
    gmul invMixMatrix[i][(0 : Fin 4)] (gmul mixMatrix[(0 : Fin 4)][j] x) ^^^ gmul invMixMatrix[i][(1 : Fin 4)] (gmul mixMatrix[(1 : Fin 4)][j] x) ^^^
      gmul invMixMatrix[i][(2 : Fin 4)] (gmul mixMatrix[(2 : Fin 4)][j] x) ^^^ gmul invMixMatrix[i][(3 : Fin 4)] (gmul mixMatrix[(3 : Fin 4)][j] x) =
      if i = j then x else 0#8 := by
  have term (a : Fin 4) : gmul invMixMatrix[i][a] (gmul mixMatrix[a][j] x) = mixProductTerm (j - i) (a - i) x := by
    simp only [invMixMatrix, mixMatrix, rotationsOf_getElem, mixProductTerm, sub_sub_sub_cancel_right]
  rw [term, term, term, term, xor_four_rotate (mixProductTerm (j - i) · x), mixProduct_firstRow]
  simp only [sub_eq_zero, @eq_comm _ j i]

/-- The rows of one column under a matrix. -/
theorem mixWith_column (m : Matrix4) (s : Block) {c : Nat} (hc : c < 4) (a : Fin 4) :
    (mixWith m s)[4 * c + a.val] =
      gmul m[a][(0 : Fin 4)] s[4 * c] ^^^ gmul m[a][(1 : Fin 4)] s[4 * c + 1] ^^^
        gmul m[a][(2 : Fin 4)] s[4 * c + 2] ^^^ gmul m[a][(3 : Fin 4)] s[4 * c + 3] := by
  rw [mixWith_getElem]
  simp only [show (4 * c + a.val) % 4 = a.val by omega, show (4 * c + a.val) / 4 = c by omega]
  rfl

theorem invMixColumns_mixColumns (s : Block) : invMixColumns (mixColumns s) = s := by
  refine block_ext fun k hk => ?_
  have hc : k / 4 < 4 := by omega
  have column := mixWith_column mixMatrix s hc
  have product := invMixMatrix_mul_mixMatrix ⟨k % 4, by omega⟩
  have regroup : (invMixColumns (mixColumns s))[k] =
      (if k % 4 = 0 then s[4 * (k / 4)] else 0#8) ^^^ (if k % 4 = 1 then s[4 * (k / 4) + 1] else 0#8) ^^^
        (if k % 4 = 2 then s[4 * (k / 4) + 2] else 0#8) ^^^ (if k % 4 = 3 then s[4 * (k / 4) + 3] else 0#8) := by
    have h0 := product 0 s[4 * (k / 4)]
    have h1 := product 1 s[4 * (k / 4) + 1]
    have h2 := product 2 s[4 * (k / 4) + 2]
    have h3 := product 3 s[4 * (k / 4) + 3]
    simp only [Fin.ext_iff] at h0 h1 h2 h3
    rw [invMixColumns, mixWith_getElem, mixColumns, show (mixWith _ s)[4 * (k / 4)] = _ from column 0,
      show (mixWith _ s)[4 * (k / 4) + 1] = _ from column 1, show (mixWith _ s)[4 * (k / 4) + 2] = _ from column 2,
      show (mixWith _ s)[4 * (k / 4) + 3] = _ from column 3]
    refine Eq.trans ?_ (congrArg₂ (· ^^^ ·) (congrArg₂ (· ^^^ ·) (congrArg₂ (· ^^^ ·) h0 h1) h2) h3)
    simp only [gmul_xor]
    ac_rfl
  rw [regroup]
  obtain h | h | h | h : k % 4 = 0 ∨ k % 4 = 1 ∨ k % 4 = 2 ∨ k % 4 = 3 := by omega
  · simp [h, show 4 * (k / 4) = k by omega]
  · simp [h, show 4 * (k / 4) + 1 = k by omega]
  · simp [h, show 4 * (k / 4) + 2 = k by omega]
  · simp [h, show 4 * (k / 4) + 3 = k by omega]

/-- Each round of the InvCipher takes back the round of the Cipher with the same key. -/
theorem decryptRounds_encrypt (k b : Block) {n : Nat} (hn : n ≤ 9) :
    decryptRounds k (encrypt k b) n = shiftRows (subBytes (encryptRounds k b (9 - n))) := by
  induction n with
  | zero => exact addRoundKey_addRoundKey _ _
  | succ n ih =>
    rw [decryptRounds, ih (by omega), invShiftRows_shiftRows, invSubBytes_subBytes, show 9 - n = 9 - (n + 1) + 1 by omega, encryptRounds,
      addRoundKey_addRoundKey, invMixColumns_mixColumns]

theorem decrypt_encrypt (k b : Block) : decrypt k (encrypt k b) = b := by
  rw [decrypt, decryptRounds_encrypt k b le_rfl, invShiftRows_shiftRows, invSubBytes_subBytes]
  exact addRoundKey_addRoundKey b _

/-- Settles O23. -/
theorem conformingTableSetsAreMutualInverses : Obligations.ConformingTableSetsAreMutualInverses := by
  rintro te td k ⟨-, -, hencrypt⟩ ⟨-, -, hdecrypt⟩ b
  calc wb td wiringD (wb te wiringE b) = decrypt k (wb te wiringE b) := hdecrypt _
    _ = decrypt k (encrypt k b) := congrArg (decrypt k) (hencrypt b)
    _ = b := decrypt_encrypt k b

/-! ### EVAL with a table-set that conforms -/

theorem Direction.wiringOf_byte (d : Direction) : wiringOf d.byte = d.wiring := by cases d <;> rfl

theorem Direction.byte_getLsbD_zero (d : Direction) : d.byte.getLsbD 0 = decide (d = .decrypt) := by cases d <;> rfl

/-- Only the artifact's bytes matter to conformance (R96, R160). -/
theorem Conforms.congr {t t' : Image} {k : Block} {d : Direction} (h : ∀ a, a < Config.tsBytes → t a = t' a) (ht : Conforms t' k d) :
    Conforms t k d := by
  obtain ⟨hhdr, hdir, hwb⟩ := ht
  exact ⟨(hdrOK_congr (header_congr h)).trans hhdr, (dirb_congr (header_congr h)).trans hdir, fun b => (wb_congr h _ b).trans (hwb b)⟩

/-- Settles O25: the header passes, and the walk under the direction's wiring is the network. -/
theorem evalWithConformingTableSetIsAes : Obligations.EvalWithConformingTableSetIsAes := by
  rintro s k d ⟨hhdr, hdir, hwb⟩
  refine ⟨_, execEval_ok hhdr, ?_, rfl, rfl, rfl, ?_⟩
  · calc s.evalBlock = wb s.image (wiringOf (dirb s.image)) s.din := evalBlock_eq_wb s
      _ = wb s.image d.wiring s.din := by rw [hdir, d.wiringOf_byte]
      _ = d.aes k s.din := hwb s.din
  · exact (congrArg (BitVec.getLsbD · 0) hdir).trans d.byte_getLsbD_zero

/-- The Cipher on the vector of FIPS-197 that the worked example takes. -/
theorem encrypt_workedExample :
    encrypt #v[0x00, 0x01, 0x02, 0x03, 0x04, 0x05, 0x06, 0x07, 0x08, 0x09, 0x0a, 0x0b, 0x0c, 0x0d, 0x0e, 0x0f]
        #v[0x00, 0x11, 0x22, 0x33, 0x44, 0x55, 0x66, 0x77, 0x88, 0x99, 0xaa, 0xbb, 0xcc, 0xdd, 0xee, 0xff] =
      #v[0x69, 0xc4, 0xe0, 0xd8, 0x6a, 0x7b, 0x04, 0x30, 0xd8, 0xcd, 0xb7, 0x80, 0x70, 0xb4, 0xc5, 0x5a] := by decide +kernel

/-- Settles O26: the reference table-set conforms, so EVAL's output is the Cipher's. -/
theorem workedExampleEvaluates : Obligations.WorkedExampleEvaluates := by
  intro s htmem hdin
  obtain ⟨t, heval, hdout, herr, houtlen, htsv, hdir⟩ :=
    evalWithConformingTableSetIsAes s _ _ ((referenceTableSetsConform .encrypt _).congr htmem)
  refine ⟨t, heval, hdout.trans ?_, houtlen, htsv, hdir, herr⟩
  rw [hdin]
  exact encrypt_workedExample

end Sys2Proof.Machine

/-! The encodings that a table-set can carry: the network on the encoded table-set walks through the encoded round states, and its last round takes the
encoding off (spec/40_cipher.md R163). -/

namespace Sys2Proof.Machine

/-- An artifact with a direction's byte passes the header check, whatever its tables hold (R83). -/
theorem hdrOK_artifact (d : Direction) (tb : Tables) : hdrOK (artifact d.byte tb) = true := by
  have header : ∀ a, a < 0x20 → artifact d.byte tb a = refImage d zeroBlock a := fun a ha => by
    rw [refImage, artifact, artifact, if_pos ha, if_pos ha]
  exact (hdrOK_congr header).trans (hdrOK_refImage d zeroBlock)

theorem dirb_artifact (dir : Byte) (tb : Tables) : dirb (artifact dir tb) = dir := rfl

/-- The bytes of a word combined of four (R12). -/
theorem byteOfWord_word4 (f : Fin 4 → Byte) (i : Fin 4) : byteOfWord (word4 (f 0) (f 1) (f 2) (f 3)) i.val = f i := by
  match i with
  | 0 => exact byteOfWord_word4_zero _ _ _ _
  | 1 => exact byteOfWord_word4_one _ _ _ _
  | 2 => exact byteOfWord_word4_two _ _ _ _
  | 3 => exact byteOfWord_word4_three _ _ _ _

/-! ### The encoding of a round state -/

/-- The affine map `A_{r,j}`, with A_{0,j} the identity (R163). -/
def Encoding.affine (e : Encoding) (r : Nat) (j : Lane) (x : Byte) : Byte :=
  if r = 0 then x else e.lin r j x ^^^ e.off r j

/-- The round state after round `r`, encoded lane by lane. -/
def Encoding.encode (e : Encoding) (r : Nat) (s : Block) : Block := Vector.ofFn fun j : Lane => e.affine r j s[j]

theorem Encoding.encode_getElem (e : Encoding) (r : Nat) (s : Block) (k : Nat) (h : k < 16) : (e.encode r s)[k] = e.affine r ⟨k, h⟩ s[k] := by
  simp [Encoding.encode]

theorem Encoding.encode_zero (e : Encoding) (s : Block) : e.encode 0 s = s :=
  block_ext fun k hk => e.encode_getElem 0 s k hk

theorem Encoding.affine_of_pos (e : Encoding) {r : Nat} (h : 1 ≤ r) (j : Lane) (x : Byte) : e.affine r j x = e.lin r j x ^^^ e.off r j :=
  if_neg (by omega)

/-- Byte `i` of `Lw` and of the constants of a column are those of lane `4c + i` (R163). -/
theorem Encoding.byteOfWord_linWord (e : Encoding) (r : Nat) (j : Lane) (w : Word) (i : Fin 4) :
    byteOfWord (e.linWord r j w) i.val = e.lin r (columnLane j i) (byteOfWord w i.val) :=
  byteOfWord_word4 (fun i => e.lin r (columnLane j i) (byteOfWord w i.val)) i

theorem Encoding.byteOfWord_offWord (e : Encoding) (r : Nat) (j : Lane) (i : Fin 4) :
    byteOfWord (e.offWord r j) i.val = e.off r (columnLane j i) :=
  byteOfWord_word4 (fun i => e.off r (columnLane j i)) i

/-- The lanes of one column name the same column. -/
theorem columnLane_columnLane (j : Lane) (a i : Fin 4) : columnLane (columnLane j a) i = columnLane j i :=
  Fin.ext (by simp only [columnLane]; omega)

section
variable {e : Encoding} (hv : e.Valid) {t : Image} {p : Wiring} {r : Nat}
include hv

theorem Encoding.Valid.affineInv_affine (hr : r ≤ 9) (j : Lane) (x : Byte) : e.affineInv r j (e.affine r j x) = x := by
  unfold Encoding.affineInv Encoding.affine
  by_cases h : r = 0
  · rw [if_pos h, if_pos h]
  · rw [if_neg h, if_neg h, BitVec.xor_assoc, BitVec.xor_self, BitVec.xor_zero, hv.linInverse r j x (by omega) hr]

/-! ### The entries of T' -/

theorem Encoding.Valid.subEntry_encodedImage (hr : 1 ≤ r) (hr' : r ≤ 9) (j : Lane) (x : Byte) :
    subEntry (encodedImage e t p) r j.val (e.affine (r - 1) p[j] x) = e.edge r j (subEntry t r j.val x) := by
  refine (subEntry_artifact _ _ hr (by omega) j _).trans ?_
  simp only [if_pos hr', hv.affineInv_affine (show r - 1 ≤ 9 by omega)]

theorem Encoding.Valid.subEntry_encodedImage_last (j : Lane) (x : Byte) :
    subEntry (encodedImage e t p) 10 j.val (e.affine 9 p[j] x) = subEntry t 10 j.val x := by
  refine (subEntry_artifact _ _ (by decide) le_rfl j _).trans ?_
  simp only [show ¬ 10 ≤ 9 by decide, if_false, hv.affineInv_affine le_rfl]

theorem Encoding.Valid.mcEntry_encodedImage (hr : 1 ≤ r) (hr' : r ≤ 9) (j : Lane) (y : Byte) :
    mcEntry (encodedImage e t p) r j.val (e.edge r j y) = e.linWord r j (mcEntry t r j.val y) ^^^ e.mask r j := by
  refine (mcEntry_artifact _ _ hr hr' j _).trans ?_
  simp only [hv.edgeInverse r j y hr hr']

/-! ### The rounds -/

/-- The edge bijections meet their inverses, `Lw` is linear, and the words K add up to the constants of the column. -/
theorem Encoding.Valid.mcColumn_encodedImage (hr : 1 ≤ r) (hr' : r ≤ 9) {u u' : Block} (hu : ∀ j : Lane, u'[j] = e.edge r j u[j]) (c i : Fin 4) :
    byteOfWord (mcColumn (encodedImage e t p) r u' c) i.val =
      e.affine r ⟨4 * c.val + i.val, by omega⟩ (byteOfWord (mcColumn t r u c) i.val) := by
  have hcolumn (a : Fin 4) : (⟨4 * c.val + a.val, by omega⟩ : Lane) = columnLane ⟨4 * c.val, by omega⟩ a :=
    Fin.ext (by simp only [columnLane]; omega)
  have entry (a : Fin 4) : byteOfWord (mcEntry (encodedImage e t p) r (4 * c.val + a.val) u'[4 * c.val + a.val]) i.val =
      e.lin r (columnLane ⟨4 * c.val, by omega⟩ i) (byteOfWord (mcEntry t r (4 * c.val + a.val) u[4 * c.val + a.val]) i.val) ^^^
        byteOfWord (e.mask r (columnLane ⟨4 * c.val, by omega⟩ a)) i.val := by
    have h := hv.mcEntry_encodedImage (t := t) (p := p) hr hr' ⟨4 * c.val + a.val, by omega⟩ u[4 * c.val + a.val]
    rw [show u'[4 * c.val + a.val] = _ from hu ⟨4 * c.val + a.val, by omega⟩]
    refine (congrArg (byteOfWord · i.val) h).trans ?_
    dsimp only
    rw [byteOfWord_xor, e.byteOfWord_linWord, hcolumn, columnLane_columnLane]
  have masks := congrArg (byteOfWord · i.val) (hv.maskSum r ⟨4 * c.val, by omega⟩ hr hr')
  simp only [byteOfWord_xor, e.byteOfWord_offWord] at masks
  rw [e.affine_of_pos hr, hcolumn, ← masks]
  simp only [mcColumn, byteOfWord_xor, hv.linear _ _ _ _ hr hr']
  refine (congrArg₂ (· ^^^ ·) (congrArg₂ (· ^^^ ·) (congrArg₂ (· ^^^ ·) (entry 0) (entry 1)) (entry 2)) (entry 3)).trans ?_
  simp only [Fin.val_zero, Nat.add_zero]
  ac_rfl

theorem Encoding.Valid.netRound_encodedImage {n : Nat} (hn : n < 9) (s : Block) :
    netRound (encodedImage e t p) p (n + 1) (e.encode n s) = e.encode (n + 1) (netRound t p (n + 1) s) := by
  have hedge (j : Lane) :
      (subLayer (encodedImage e t p) (n + 1) (wire p (e.encode n s)))[j] = e.edge (n + 1) j (subLayer t (n + 1) (wire p s))[j] := by
    rw [Fin.getElem_fin, Fin.getElem_fin, subLayer_getElem, subLayer_getElem, wire_getElem, wire_getElem, e.encode_getElem]
    exact hv.subEntry_encodedImage (by omega) hn j _
  refine block_ext fun k hk => ?_
  rw [netRound, netRound, mcLayer_getElem, e.encode_getElem, mcLayer_getElem]
  refine (hv.mcColumn_encodedImage (by omega) hn hedge ⟨k / 4, by omega⟩ ⟨k % 4, by omega⟩).trans ?_
  simp only [Nat.div_add_mod]

theorem Encoding.Valid.netRounds_encodedImage {n : Nat} (hn : n ≤ 9) (b : Block) :
    netRounds (encodedImage e t p) p n b = e.encode n (netRounds t p n b) := by
  induction n with
  | zero => exact (e.encode_zero b).symm
  | succ n ih => rw [netRounds, ih (by omega), hv.netRound_encodedImage hn, netRounds]

/-- The encodings cancel along the network (R163). -/
theorem Encoding.Valid.wb_encodedImage (b : Block) : wb (encodedImage e t p) p b = wb t p b := by
  rw [wb_eq_subLayer, wb_eq_subLayer, hv.netRounds_encodedImage le_rfl]
  refine block_ext fun k hk => ?_
  rw [subLayer_getElem, subLayer_getElem, wire_getElem, wire_getElem, e.encode_getElem]
  exact hv.subEntry_encodedImage_last ⟨k, hk⟩ _

end

/-- Settles O24: T' keeps the direction, and its network is T's. -/
theorem encodedTableSetConforms : Obligations.EncodedTableSetConforms := by
  rintro e t k d hv ⟨-, hdir, hwb⟩
  refine ⟨?_, (dirb_artifact _ _).trans hdir, fun b => (hv.wb_encodedImage b).trans (hwb b)⟩
  rw [encodedImage, hdir]
  exact hdrOK_artifact d _

end Sys2Proof.Machine

/-! The padding codec: PAD, UNPAD, that UNPAD undoes PAD, and the source's stream codec as its full blocks and the block codec on the last one
(spec/41_padding.md R192..R199). -/

namespace Sys2Proof.Machine

/-! ### The two commands -/

theorem exec_pad {len : BitVec 5} (hlen : len.toNat ≤ 15) (s : State) :
    exec (.pad len) s = .next (s.output (padBlock s.din len.toNat) 16#5).complete :=
  execPad_ok hlen s

theorem exec_unpad_ok {s : State} (h : padOK s.din = true) :
    exec .unpad s = .next (s.output (unpadBlock s.din) (BitVec.ofNat 5 (16 - s.din[15].toNat))).complete :=
  execUnpad_ok h

theorem exec_unpad_bad {s : State} (h : padOK s.din = false) : exec .unpad s = .next (s.raiseError .invalidPadding) :=
  execUnpad_bad h

/-- The three ways in which padding is invalid (R195). -/
theorem padOK_eq_false_iff (x : Block) :
    padOK x = false ↔ x[15].toNat = 0 ∨ 16 < x[15].toNat ∨ ∃ k : Lane, 16 - x[15].toNat ≤ k.val ∧ x[k] ≠ x[15] := by
  simp only [← Bool.not_eq_true, padOK_iff, not_and_or, not_forall, exists_prop, Nat.not_le, Nat.lt_one_iff]

/-- Settles O27: the output is the padded block. -/
theorem padBuildsTheFinalBlock : Obligations.PadBuildsTheFinalBlock :=
  fun s _ hlen => ⟨_, fun k => padBlock_getElem s.din _ k.val k.isLt, exec_pad hlen s⟩

/-- Settles O29: the two clauses are `padOK` and its negation. -/
theorem unpadFollowsItsRule : Obligations.UnpadFollowsItsRule := by
  refine ⟨?_, fun s h => exec_unpad_bad ((padOK_eq_false_iff s.din).2 h)⟩
  rintro s n rfl h1 h16 hpad
  exact ⟨_, fun k => unpadBlock_getElem s.din k.val k.isLt, exec_unpad_ok ((padOK_iff s.din).2 ⟨h1, h16, hpad⟩)⟩

/-! ### UNPAD undoes PAD -/

/-- A padded block of a chunk names the length of its padding in its last byte. -/
theorem padBlock_last_toNat (x : Block) {m : Nat} (hm : m ≤ 15) : (padBlock x m)[15].toNat = 16 - m := by
  rw [padBlock_getElem, if_neg (by omega), BitVec.toNat_ofNat]
  omega

theorem padOK_padBlock (x : Block) {m : Nat} (hm : m ≤ 15) : padOK (padBlock x m) = true := by
  rw [padOK_iff, padBlock_last_toNat x hm]
  refine ⟨by omega, by omega, fun k hk => ?_⟩
  rw [Fin.getElem_fin, padBlock_getElem, padBlock_getElem, if_neg (by omega), if_neg (by omega)]

theorem unpadBlock_padBlock_getElem (x : Block) {m : Nat} (hm : m ≤ 15) (k : Nat) (hk : k < 16) :
    (unpadBlock (padBlock x m))[k] = if k < m then x[k] else 0#8 := by
  rw [unpadBlock_getElem, padBlock_last_toNat x hm, show 16 - (16 - m) = m by omega, padBlock_getElem]
  split <;> rfl

/-- Settles O30: PAD's output is valid, and stripping it leaves the chunk. -/
theorem unpadInvertsPad : Obligations.UnpadInvertsPad := by
  intro s u len hlen
  refine ⟨_, exec_pad hlen s, fun hdin => ?_⟩
  replace hdin : u.din = padBlock s.din len.toNat := hdin
  refine ⟨_, exec_unpad_ok (hdin ▸ padOK_padBlock s.din hlen), rfl, ?_, fun k => ?_⟩
  · show BitVec.ofNat 5 (16 - u.din[15].toNat) = len
    rw [hdin, padBlock_last_toNat s.din hlen, show 16 - (16 - len.toNat) = len.toNat by omega, BitVec.ofNat_toNat, BitVec.setWidth_eq]
  · show (unpadBlock u.din)[k.val] = _
    rw [hdin]
    exact unpadBlock_padBlock_getElem s.din hlen k.val k.isLt

theorem padOK_set_last (x : Block) {v : Byte} (hv : v = 0#8 ∨ 16 < v.toNat) : padOK (x.set 15 v) = false := by
  rw [padOK_eq_false_iff, Vector.getElem_set_self]
  exact hv.imp (congrArg BitVec.toNat) .inl

/-- Settles O31: a last byte outside 1..16 is refused whatever the other bytes are. -/
theorem tamperedPaddingIsInvalid : Obligations.TamperedPaddingIsInvalid :=
  fun s _ _ _ hlen hv => ⟨_, exec_pad hlen s, fun hdin => ⟨_, exec_unpad_bad (hdin ▸ padOK_set_last _ hv), rfl, rfl, rfl, rfl⟩⟩

/-! ### The stream codec -/

theorem padBlock_toList (x : Block) {m : Nat} (hm : m ≤ 16) :
    (padBlock x m).toList = x.toList.take m ++ List.replicate (16 - m) (BitVec.ofNat 8 (16 - m)) := by
  refine List.ext_getElem (by simp; omega) fun k hk _ => ?_
  rw [Vector.getElem_toList, padBlock_getElem, List.getElem_append]
  by_cases h : k < m <;> simp [hm, h]

/-- The bytes of a stream that its full chunks leave over. -/
theorem drop_fullChunks_eq_take {data : List Byte} {x : Block}
    (h : ∀ k : Lane, k.val < data.length % 16 → data[16 * (data.length / 16) + k.val]? = some x[k]) :
    data.drop (16 * (data.length / 16)) = x.toList.take (data.length % 16) := by
  have hm : data.length % 16 < 16 := Nat.mod_lt _ (by decide)
  refine List.ext_getElem (by simp; omega) fun k _ hk => ?_
  have hk : k < data.length % 16 := by rw [List.length_take] at hk; omega
  rw [List.getElem_drop, List.getElem_take, Vector.getElem_toList]
  exact (List.getElem?_eq_some_iff.1 (h ⟨k, hk.trans hm⟩ hk)).2

/-- Settles O32: the left-over bytes and the appended padding are the padded block. -/
theorem streamPadIsBlockPad : Obligations.StreamPadIsBlockPad := by
  intro data s hdin
  have hm : data.length % 16 ≤ 15 := Nat.le_of_lt_succ (Nat.mod_lt _ (by decide))
  have hlen := toNat_len_of_le hm
  refine ⟨_, exec_pad (hlen.trans_le hm) s, rfl, ?_⟩
  calc padStream data
      = data.take (16 * (data.length / 16)) ++ (data.drop (16 * (data.length / 16)) ++
          List.replicate (16 - data.length % 16) (BitVec.ofNat 8 (16 - data.length % 16))) := by
        rw [← List.append_assoc, List.take_append_drop, padStream]
    _ = data.take (16 * (data.length / 16)) ++ (padBlock s.din (data.length % 16)).toList := by
        rw [drop_fullChunks_eq_take hdin, padBlock_toList s.din (by omega)]
    _ = _ := by rw [complete_dout, output_dout, hlen]

/-- `PadOK` on the list of a block's bytes, as the stream codec checks it (R195). -/
theorem padOK_iff_toList (x : Block) :
    padOK x = true ↔ 1 ≤ x[15].toNat ∧ x[15].toNat ≤ 16 ∧ ∀ b ∈ x.toList.drop (16 - x[15].toNat), b = x[15] := by
  rw [padOK_iff]
  refine and_congr_right fun _ => and_congr_right fun _ => ⟨fun h b hb => ?_, fun h k hk => h _ ?_⟩
  · obtain ⟨i, hi, rfl⟩ := List.mem_drop_iff_getElem.1 hb
    exact h ⟨16 - x[15].toNat + i, by rw [x.length_toList] at hi; omega⟩ (Nat.le_add_right _ _)
  · have hk' : 16 - x[15].toNat + (k.val - (16 - x[15].toNat)) = k.val := Nat.add_sub_cancel' hk
    exact List.mem_drop_iff_getElem.2 ⟨k.val - (16 - x[15].toNat), by simp; omega, by simp [hk']⟩

theorem unpadBlock_toList_take (x : Block) :
    (unpadBlock x).toList.take (16 - x[15].toNat) = x.toList.take (16 - x[15].toNat) := by
  refine List.ext_getElem (by simp) fun k hk _ => ?_
  have hk : k < 16 - x[15].toNat := by rw [List.length_take] at hk; omega
  rw [List.getElem_take, List.getElem_take, Vector.getElem_toList, Vector.getElem_toList, unpadBlock_getElem, if_pos hk]

/-- The padding of a stream spans no more than its last block, since `n ≤ 16` (R198). -/
theorem unpadStream_append_block (init : List Byte) (x : Block) :
    unpadStream (init ++ x.toList) =
      if padOK x = true then some (init ++ (unpadBlock x).toList.take (16 - x[15].toNat)) else none := by
  have hlast : (init ++ x.toList).getLast? = some x[15] := by simp [List.getLast?_eq_getElem?]
  by_cases h16 : x[15].toNat ≤ 16
  · have hlen : (init ++ x.toList).length = init.length + 16 := by simp
    have hdata : (init ++ x.toList).length - x[15].toNat = init.length + (16 - x[15].toNat) := by omega
    have hfits : x[15].toNat ≤ (init ++ x.toList).length := by omega
    simp only [unpadStream, hlast, hdata, hfits, List.drop_length_add_append, List.take_length_add_append, unpadBlock_toList_take, padOK_iff_toList,
      true_and]
  · have hbad : padOK x = false := (padOK_eq_false_iff x).2 (.inr (.inl (Nat.lt_of_not_le h16)))
    simp [unpadStream, hlast, h16, hbad]

/-- Settles O33: the stream is the bytes before its last block, then that block. -/
theorem streamUnpadIsBlockUnpad : Obligations.StreamUnpadIsBlockUnpad := by
  intro data s _ _ hblock
  have hstream := unpadStream_append_block (data.take (data.length - 16)) s.din
  rw [← hblock, List.take_append_drop] at hstream
  cases hp : padOK s.din with
  | true =>
    have hn : (BitVec.ofNat 5 (16 - s.din[15].toNat)).toNat = 16 - s.din[15].toNat := by
      obtain ⟨h1, -, -⟩ := (padOK_iff s.din).1 hp
      exact toNat_len_of_le (by omega)
    refine ⟨_, exec_unpad_ok hp, by simp [hstream, hp], fun _ => ?_⟩
    rw [hstream, if_pos hp]
    simp [hn]
  | false => exact ⟨_, exec_unpad_bad hp, by simp [hstream, hp], fun h => absurd h (by simp)⟩

end Sys2Proof.Machine

/-! Exceptions: the engine's turn as the run of the decoded command, what an error completion writes, and which command can end with which code
(spec/60_exceptions.md R221, R223, R225, R226). -/

namespace Sys2Proof.Machine

/-! ### The engine's turn -/

theorem step_engine {s : State} (ht : s.turn = .engine) : step s = engineTurn s.popTurn := by
  rw [step_eq, ht]
  rfl

/-- Settles O6: the turn, and the run of the command in flight. -/
theorem stepRunsTheDecodedCommand : Obligations.StepRunsTheDecodedCommand :=
  ⟨fun _ => step_engine, fun s _ ht hb hd => (step_engine ht).trans (engineTurn_ok (s := s.popTurn) hb hd)⟩

/-- Settles O7: the completion of a command in flight, and the turn that only passes. -/
theorem engineTurnCompletesExactlyWhenBusy : Obligations.EngineTurnCompletesExactlyWhenBusy := by
  refine fun s ht => ⟨fun hb => ?_, step_engine_idle ht⟩
  obtain ⟨t, he, hbusy, hdone, -⟩ := engineTurn_completes (s := s.popTurn) hb
  exact ⟨t, (step_engine ht).trans he, hbusy, hdone⟩

/-! ### Error completions -/

theorem CmdError.code_eq_one_iff (e : CmdError) : e.code = 1#3 ↔ e = .malformedTableSet := by cases e <;> decide

theorem Status.ErrOk.errcode_of_err {st : Status} (h : st.ErrOk) (he : st.err = true) :
    st.errcode = 1#3 ∨ st.errcode = 2#3 ∨ st.errcode = 3#3 := by
  simpa [Status.ErrOk, he] using h

/-- An error completion raises its error over STATUS, where only MalformedTableSet first clears TSV (R226). -/
theorem Completion.of_err {s t : State} (h : Completion s t) (he : t.status.err = true) :
    ∃ e : CmdError, t.status = Status.fail { s.status with tsv := if e = .malformedTableSet then false else s.status.tsv } e ∧
      t.dout = s.dout ∧ t.ie = s.ie := by
  cases h with
  | evalOk | checkOk | pad | unpadOk => exact absurd he Bool.false_ne_true
  | evalBad | checkBad => exact ⟨.malformedTableSet, rfl, rfl, rfl⟩
  | unpadBad => exact ⟨.invalidPadding, rfl, rfl, rfl⟩
  | illegal => exact ⟨.illegalCommand, rfl, rfl, rfl⟩

/-- Settles O35: STATUS is that of the error raised, and no completion writes DIN or TMEM. -/
theorem errorCompletionWritesOnlyStatus : Obligations.ErrorCompletionWritesOnlyStatus := by
  intro s t ht hb h he
  have hc := (step_engine_iff ht hb).1 h
  obtain ⟨e, hst, hdout, hie⟩ := hc.of_err he
  obtain ⟨hdin, -, -⟩ := hc.inputs
  have hcode := hc.errOk.errcode_of_err he
  have htsv : t.status.tsv = if t.status.errcode = 1#3 then false else s.status.tsv := by simp [hst, CmdError.code_eq_one_iff]
  exact ⟨hc.busy, by simp [hst], hcode, htsv, hdout, by simp [hst], by simp [hst], hdin, congrFun hc.image, by simp [hst], hie⟩

/-! ### Error codes per command -/

/-- The table of R223: the codes a completion can end with, by the verdict on the command word. -/
def errcodesOf (verdict : Except DecodeReject Instr) : List (BitVec 3) :=
  match verdict with
  | .ok .eval => [0#3, 1#3]
  | .ok .check => [0#3, 1#3]
  | .ok (.pad _) => [0#3]
  | .ok .unpad => [0#3, 2#3]
  | .error _ => [3#3]

theorem Completion.errcode_mem {s t : State} (h : Completion s t) : t.status.errcode ∈ errcodesOf (decode s.lcmd) := by
  cases h with
  | evalOk hd | evalBad hd | checkOk hd | checkBad hd | pad hd | unpadOk hd | unpadBad hd | illegal hd => simp [hd, errcodesOf, CmdError.code]

/-- Settles O36, each clause a row of R223's table. -/
theorem errorCodesPerCommand : Obligations.ErrorCodesPerCommand := by
  intro s hb
  obtain ⟨t, he⟩ := engineTurn_goes_on s
  have hmem := ((engineTurn_eq_next_iff hb).1 he).errcode_mem
  refine ⟨t, he, ?_, fun len hd => ?_, fun hd => ?_, fun hillegal => ?_⟩
  · rintro (hd | hd) <;> simpa [hd, errcodesOf] using hmem
  · simpa [hd, errcodesOf] using hmem
  · simpa [hd, errcodesOf] using hmem
  · cases hd : decode s.lcmd with
    | ok i => exact absurd ⟨i, hd⟩ hillegal
    | error r => simpa [hd, errcodesOf] using hmem

end Sys2Proof.Machine

/-! Reset from any state, and the end of every command in flight: the turns run out one by one, and past their end the engine completes it
(spec/20_memory.md R90, R260, R283; log entries 4 and 10). -/

namespace Sys2Proof.Machine

/-! ### Reset -/

theorem Status.zero_toWord : Status.zero.toWord = 0x00000000#32 := by decide

/-- Settles O51: the state after a reset, field by field. -/
theorem resetStepAbandonsEverything : Obligations.ResetStepAbandonsEverything :=
  fun _ ht => ⟨_, step_reset ht, Status.zero_toWord, rfl, rfl, rfl, rfl,
    fun k => ⟨zeroBlock_getElem k.val k.isLt, zeroBlock_getElem k.val k.isLt⟩, fun _ => image_unwritten rfl, rfl, rfl, rfl⟩

/-! ### The end of a command in flight -/

/-- No completion touches the interleaving. -/
theorem Completion.turns {s t : State} (h : Completion s t) : t.turns = s.turns := by
  cases h <;> rfl

/-- Every step that goes on spends one turn. -/
theorem StepKind.turns {s t : State} (h : StepKind s t) : t.turns = s.turns.tail := by
  cases h with
  | completion _ _ hc => exact hc.turns
  | reset | write | blockKept => rfl

/-- A host turn while a command is in flight goes on, spends the turn, and leaves the command in flight. -/
theorem step_host_busy {s : State} (ht : s.turn = .host) (hb : s.status.busy = true) :
    ∃ m, step s = .next m ∧ m.status.busy = true ∧ m.turns = s.turns.tail := by
  obtain ⟨m, hstep⟩ := step_goes_on (s := s) fun ⟨_, hidle, _⟩ => Bool.false_ne_true (hidle.symm.trans hb)
  have hkind := stepKind hstep
  have hbusy : m.status.busy ≠ false := fun hidle => by simpa [ht] using hkind.busy_falls hb hidle
  exact ⟨m, hstep, Bool.eq_true_of_not_eq_false hbusy, hkind.turns⟩

/-- The engine's turn with a command in flight ends it in one step. -/
theorem run_one_of_engine {s : State} (ht : s.turn = .engine) (hb : s.status.busy = true) :
    ∃ t, Host.Core.run core 1 s = .next t ∧ t.status.busy = false ∧ t.status.done = true := by
  obtain ⟨t, hstep, hend⟩ := (engineTurnCompletesExactlyWhenBusy s ht).1 hb
  exact ⟨t, run_of_next hstep, hend⟩

/-- Settles O60, by induction on the turns to come: a host turn leaves the command to the rest of them, an engine turn or their end completes it, and a
reset abandons it. -/
theorem commandInFlightEnds : Obligations.CommandInFlightEnds := by
  intro s hb
  induction hts : s.turns generalizing s with
  | nil =>
    have ht : s.turn = .engine := by simp [turn_of_nil hts, hb]
    obtain ⟨t, hrun, hbusy, hdone⟩ := run_one_of_engine ht hb
    exact ⟨1, t, Nat.le_add_left 1 _, hrun, hbusy, fun _ => hdone⟩
  | cons turn ts ih =>
    have ht : s.turn = turn := by rw [State.turn, hts]
    cases turn with
    | host =>
      obtain ⟨m, hstep, hbm, htm⟩ := step_host_busy ht hb
      obtain ⟨n, t, hn, hrun, hbusy, hdone⟩ := ih m hbm (by rw [htm, hts, List.tail_cons])
      exact ⟨n + 1, t, Nat.succ_le_succ hn, (run_of_next hstep).trans hrun, hbusy, fun hr => hdone fun h => hr (.tail _ h)⟩
    | engine =>
      obtain ⟨t, hrun, hbusy, hdone⟩ := run_one_of_engine ht hb
      exact ⟨1, t, Nat.le_add_left 1 _, hrun, hbusy, fun _ => hdone⟩
    | reset => exact ⟨1, _, Nat.le_add_left 1 _, run_of_next (step_reset ht), rfl, fun hr => absurd (.head _) hr⟩

end Sys2Proof.Machine
